-- ==== Sys2Proof/Word.lean ====
section
/-! DEFINITION. The word types of the command interface and the small closed sets of names that the spec uses
in more than one component: time units, command mnemonics, statuses, edges, pin levels, interrupt sources.
Sources: spec/00_scope.md R10, R12; spec/30_encoding.md R100, R103; spec/60_exceptions.md R300, R310. -/

namespace Sys2Proof

/-- A command word or a result word (R81, R100): 32 bits, bit 0 the least significant (R10). -/
abbrev Word := BitVec 32

/-- A byte of the little-endian byte form of a command (R81). -/
abbrev Byte := BitVec 8

/-- An index field of the command header (R101): timer or PWM channel, port, pin. -/
abbrev Index := BitVec 4

/-- An interrupt priority level 0..7 (R8): 0 means disabled, 7 is the highest. -/
abbrev Level := BitVec 3

/-- A handler identifier (R8, D34): 8 bits, 0 means absent. -/
abbrev HandlerId := BitVec 8

/-- The unit of a time operand (R101, field UNIT): 0 selects microseconds, 1 milliseconds. -/
inductive TimeUnit where
  | us
  | ms
deriving DecidableEq, Repr, Inhabited

/-- The mnemonics of the opcode map (R103), one per row. -/
inductive Opcode where
  | nop | setfreq | getfreq | getrate
  | tcfg | tstart | tstop | tsetiv | tmiss
  | millis | wait
  | pcfg | pduty | pstart | pstop | pmiss
  | bind | spur
  | rderr
deriving DecidableEq, Repr, Inhabited

/-- The completion statuses of a command (R300). -/
inductive Status where
  /-- code 0: the command took effect -/
  | ok
  /-- code 1: ConfigurationError -/
  | configErr
  /-- code 2: ConflictError -/
  | conflictErr
  /-- code 3: the command words decode to no command -/
  | illegal
deriving DecidableEq, Repr, Inhabited

/-- The numeric code of a status (R300), as a result word. -/
def Status.code : Status → Word
  | .ok => 0
  | .configErr => 1
  | .conflictErr => 2
  | .illegal => 3

/-- The direction of a logic-level transition on a pin (R250). -/
inductive EdgeDir where
  | rise
  | fall
deriving DecidableEq, Repr, Inhabited

/-- The edge-detect configuration of a pin (R41): `none` means not monitored. -/
inductive EdgeMode where
  | none
  | rising
  | falling
  | either
deriving DecidableEq, Repr, Inhabited

/-- The level the block drives onto a PWM pin (R12, R41). -/
inductive PinLevel where
  | low
  | high
deriving DecidableEq, Repr, Inhabited

/-- The interrupt sources of the block, and no others (R310). -/
inductive Source where
  /-- the period event of timer channel `c` -/
  | tmr (c : Index)
  /-- event A (rollover) of PWM channel `c` -/
  | pwmA (c : Index)
  /-- event B (compare) of PWM channel `c` -/
  | pwmB (c : Index)
  /-- the shared pin-change interrupt of port `p` -/
  | pcn (p : Index)
deriving DecidableEq, Repr, Inhabited

end Sys2Proof
end

