-- ==== Sys2Proof/Syntax.lean ====
section
/-! DEFINITION. The commands of the block as syntax terms, one constructor per row of spec/opcode_table.json
(spec/30_encoding.md R103), with the operand fields the row lists as arguments (R109). A field has the width
R101 gives it, so every term is encodable. -/

namespace Sys2Proof

/-- A command (R103). The operand words W1 and W2 appear only where the row uses them. -/
inductive Instr where
  /-- R273: no operation -/
  | nop
  /-- R132: select the ClockFrequency with table index `sel` (W1) -/
  | setfreq (sel : Word)
  /-- R133: read the selected ClockFrequency -/
  | getfreq
  /-- R134: read the counts per `unit` at the selected frequency -/
  | getrate (unit : TimeUnit)
  /-- R150: configure timer channel `ch`: base interval `iv` (W1), postscale `ps` (W2) -/
  | tcfg (ch : Index) (prio : Level) (unit : TimeUnit) (handler : HandlerId) (iv ps : Word)
  /-- R153: start timer channel `ch` -/
  | tstart (ch : Index)
  /-- R155: stop timer channel `ch` -/
  | tstop (ch : Index)
  /-- R152: change the postscale of timer channel `ch` to `ps` (W1) in place -/
  | tsetiv (ch : Index) (ps : Word)
  /-- R156: read the missed-tick counter of timer channel `ch` -/
  | tmiss (ch : Index)
  /-- R183: read the millisecond counter -/
  | millis
  /-- R190: block the issuing context for `d` milliseconds (W1) -/
  | wait (d : Word)
  /-- R200: configure PWM channel `ch`: period `per` (W1), one-hot pin mask `mask` (W2) -/
  | pcfg (ch port : Index) (prio : Level) (unit : TimeUnit) (per mask : Word)
  /-- R210: set the Q16 duty fraction `duty` (W1) of PWM channel `ch` -/
  | pduty (ch : Index) (duty : Word)
  /-- R205: start PWM channel `ch` -/
  | pstart (ch : Index)
  /-- R206: stop PWM channel `ch` -/
  | pstop (ch : Index)
  /-- R207: read the missed-event counter of PWM channel `ch` -/
  | pmiss (ch : Index)
  /-- R240: bind `handler` to edge mode `edge` of pin `pin` of port `port` -/
  | bind (port pin : Index) (edge : BitVec 2) (handler : HandlerId)
  /-- R242: read the spurious-interrupt counter of port `port` -/
  | spur (port : Index)
  /-- R276: read and clear the last-error flag -/
  | rderr
deriving DecidableEq, Repr, Inhabited

end Sys2Proof
end

