-- ==== Sys2Proof/Config.lean ====
section
/-! DEFINITION. What an implementation fixes and the spec leaves open: the parameters of spec/00_scope.md R7 as plain
data (carried by the state, written by no step), the steps the host's parties may choose (R13, R335), and the one
free value of the model, the host's choices (D1, D19, D33, D37). -/

namespace Sys2Proof

/-- One entry of the clock-rate table (R130): counts per microsecond and per millisecond. R7 and C16 bound both to
32 bits. -/
structure Rate where
  us : Word
  ms : Word
deriving DecidableEq, Repr, Inhabited

/-- R130: the counts of an entry per unit. -/
def Rate.count (r : Rate) : TimeUnit → Word
  | .us => r.us
  | .ms => r.ms

/-- The implementation parameters of R7. `rates` is the pair of functions RATE_US and RATE_MS, entry `f` at position
`f`; `portPrio` holds PORT_PRIO(p) for p < N_PORT. Their legal ranges are checked by `Config.wellFormed`. -/
structure Config where
  /-- CNT_W: width of every hardware counter and period register -/
  cntW : Nat
  /-- N_TMR: number of timer channels; channel 0 is the millisecond clock -/
  nTmr : Nat
  /-- N_PWM: number of PWM channels -/
  nPwm : Nat
  /-- N_PORT: number of GPIO ports with a pin-change interrupt -/
  nPort : Nat
  /-- N_PIN: pins per port -/
  nPin : Nat
  /-- N_FREQ: number of supported ClockFrequency values -/
  nFreq : Nat
  /-- RATE_US and RATE_MS -/
  rates : List Rate
  /-- PWM_MIN_TICKS -/
  pwmMin : Nat
  /-- PWM_MAX_TICKS -/
  pwmMax : Nat
  /-- PORT_PRIO -/
  portPrio : Vector Level 16
deriving DecidableEq, Repr

/-- DESIGN CHOICE (assumption 1): the values `State.reset` takes for the parameters. The spec gives none; these are the
vector configuration of spec/95_test_vectors.md section 1. -/
def Config.vectors : Config where
  cntW := 16
  nTmr := 4
  nPwm := 2
  nPort := 2
  nPin := 16
  nFreq := 2
  rates := [⟨8, 8000⟩, ⟨1, 1000⟩]
  pwmMin := 16
  pwmMax := 65535
  portPrio := (Vector.replicate 16 0).set 0 4 |>.set 1 2

/-- The steps of R13, as the host's parties and the arbitration choose them (R335). A command is offered as its three
words (R100); which context it comes from is the top of the context stack (R270). -/
inductive Event where
  /-- Issue (R270): the top context's program offers the command W0, W1, W2 -/
  | issue (w0 w1 w2 : Word)
  /-- Tick (R160) -/
  | tick
  /-- Take (R312) of the interrupt source `src` -/
  | take (src : Source)
  /-- DispatchStep (R255) -/
  | dispatchStep
  /-- Return (R320): the top context's program returns -/
  | ret
  /-- Spin (R192) -/
  | spin
  /-- PinEdge (R250) -/
  | pinEdge (p i : Index) (dir : EdgeDir)
  /-- SpuriousFlag (R251) -/
  | spuriousFlag (p i : Index)
deriving DecidableEq, Repr, Inhabited

/-- FREE VALUE (assumption 3): the `n`th choice of the host's parties that the state does not already hold. The spec
leaves the interleaving of steps open (R13, R313, R335, D19, D37). Nothing about this function can be proved, so what
holds of a run that reads it holds for every behaviour of programs, tick source, controller and pin environment. -/
opaque Config.environment : Nat → Event

end Sys2Proof
end

