-- ==== Sys2Proof/WellFormed.lean ====
section
/-! DEFINITION. The checks made before use: a configuration in the legal ranges of spec/00_scope.md R7 and R9, and a
command whose operands name existing resources and hold no value the spec reserves or forbids. The header fields are
typed by their widths (R101), so a term of `Instr` is always encodable; `Instr.wellFormed` is about the operand values
that a command's own rule rejects in every state (R106, R301, R303). -/

namespace Sys2Proof

/-- R7: 1 ≤ CNT_W ≤ 32. -/
def Config.cntWOk (c : Config) : Bool := decide (1 ≤ c.cntW ∧ c.cntW ≤ 32)

/-- R7: 1 ≤ N_TMR ≤ 16. -/
def Config.nTmrOk (c : Config) : Bool := decide (1 ≤ c.nTmr ∧ c.nTmr ≤ 16)

/-- R7: 0 ≤ N_PWM ≤ 16. -/
def Config.nPwmOk (c : Config) : Bool := decide (c.nPwm ≤ 16)

/-- R7: 0 ≤ N_PORT ≤ 16. -/
def Config.nPortOk (c : Config) : Bool := decide (c.nPort ≤ 16)

/-- R7: 1 ≤ N_PIN ≤ 16. -/
def Config.nPinOk (c : Config) : Bool := decide (1 ≤ c.nPin ∧ c.nPin ≤ 16)

/-- R7, R9: 1 ≤ N_FREQ ≤ 2^32 − 1, and the frequency table has N_FREQ entries. -/
def Config.nFreqOk (c : Config) : Bool := decide (1 ≤ c.nFreq ∧ c.nFreq ≤ 2 ^ 32 - 1 ∧ c.rates.length = c.nFreq)

/-- R9: every entry has RATE_US(f) and RATE_MS(f) in 1..2^32 − 1 (the upper bound is the word's width). -/
def Config.ratesOk (c : Config) : Bool := c.rates.all fun r => decide (r.us ≠ 0 ∧ r.ms ≠ 0)

/-- R7, R9: 1 ≤ PWM_MIN_TICKS ≤ PWM_MAX_TICKS ≤ 2^CNT_W − 1. -/
def Config.pwmBoundsOk (c : Config) : Bool :=
  decide (1 ≤ c.pwmMin ∧ c.pwmMin ≤ c.pwmMax ∧ c.pwmMax ≤ 2 ^ c.cntW - 1)

/-- R9: the configuration facts a model checks before use. PORT_PRIO needs no check: a level is 3 bits wide. -/
def Config.wellFormed (c : Config) : Bool :=
  c.cntWOk && c.nTmrOk && c.nPwmOk && c.nPortOk && c.nPinOk && c.nFreqOk && c.ratesOk && c.pwmBoundsOk

/-- The operands of a command name existing channels, ports and frequencies, and hold none of the values that the
command's rule rejects whatever the state is: R132 (index), R150 and R152 (postscale 0, channel 0), R200 (mask with
other than one bit, checked as a power of two), R240 (EDGE = 0b00). -/
def Instr.wellFormed (c : Config) : Instr → Bool
  | .nop => true
  | .setfreq sel => decide (sel.toNat < c.nFreq)
  | .getfreq => true
  | .getrate _ => true
  | .tcfg ch _ unit _ iv ps =>
      decide (ch.toNat < c.nTmr ∧ iv ≠ 0 ∧ ps ≠ 0 ∧ (ch = 0 → unit = .ms ∧ iv = 1 ∧ ps = 1))
  | .tstart ch => decide (ch.toNat < c.nTmr)
  | .tstop ch => decide (ch.toNat < c.nTmr)
  | .tsetiv ch ps => decide (ch.toNat < c.nTmr ∧ ch ≠ 0 ∧ ps ≠ 0)
  | .tmiss ch => decide (ch.toNat < c.nTmr)
  | .millis => true
  | .wait _ => true
  | .pcfg ch port _ _ _ mask =>
      decide (ch.toNat < c.nPwm ∧ port.toNat < c.nPort ∧ mask ≠ 0 ∧ mask &&& (mask - 1) = 0 ∧ mask.toNat < 2 ^ c.nPin)
  | .pduty ch _ => decide (ch.toNat < c.nPwm)
  | .pstart ch => decide (ch.toNat < c.nPwm)
  | .pstop ch => decide (ch.toNat < c.nPwm)
  | .pmiss ch => decide (ch.toNat < c.nPwm)
  | .bind port pin edge _ => decide (port.toNat < c.nPort ∧ pin.toNat < c.nPin ∧ edge ≠ 0)
  | .spur port => decide (port.toNat < c.nPort)
  | .rderr => true

end Sys2Proof
end

