-- ==== Sys2Proof/Decode.lean ====
section
/-! DEFINITION. The command encoding of spec/30_encoding.md: the header fields (R101), the opcode map and the fields
each row uses (R103), decoding, total and rejecting by name (R104–R106), and the encoder written from the same tables
(R109). The match/mask form of R105 stands beside it as a table of its own. -/

namespace Sys2Proof

/-- A command as delivered (R100): header word and two operand words. -/
structure Command where
  w0 : Word
  w1 : Word
  w2 : Word
deriving DecidableEq, Repr

/-- The fields of W0 (R101). They cover all 32 bits. -/
structure Header where
  op : BitVec 6
  ch : Index
  port : Index
  pin : Index
  prio : Level
  unit : BitVec 1
  edge : BitVec 2
  handler : HandlerId
deriving DecidableEq, Repr

/-- Which fields of W0, beside OP, a row of R103 uses. -/
structure UsedFields where
  ch : Bool := false
  port : Bool := false
  pin : Bool := false
  prio : Bool := false
  unit : Bool := false
  edge : Bool := false
  handler : Bool := false
deriving DecidableEq, Repr

/-- What decoding answers (R106): a command, or why the words are none. -/
inductive Decoded where
  /-- one command of R103 with its field values -/
  | ok (i : Instr)
  /-- illegal: OP is a reserved value (R104) -/
  | reservedOpcode (op : BitVec 6)
  /-- illegal: a W0 field that the row of `o` does not list is non-zero (R105) -/
  | strayField (o : Opcode)
  /-- fewer than three words: no command is delivered (R82) -/
  | incomplete
deriving DecidableEq, Repr

/-- R101, R102: every field is read zero-extended from its bits. -/
def Header.ofWord (w : Word) : Header where
  op := w.extractLsb' 0 6
  ch := w.extractLsb' 6 4
  port := w.extractLsb' 10 4
  pin := w.extractLsb' 14 4
  prio := w.extractLsb' 18 3
  unit := w.extractLsb' 21 1
  edge := w.extractLsb' 22 2
  handler := w.extractLsb' 24 8

/-- R101: W0 with the given fields. -/
def Header.toWord (h : Header) : Word :=
  h.handler ++ h.edge ++ h.unit ++ h.prio ++ h.pin ++ h.port ++ h.ch ++ h.op

/-- R101: the UNIT field, 0 = microseconds, 1 = milliseconds. -/
def TimeUnit.ofBit (b : BitVec 1) : TimeUnit := if b = 1#1 then .ms else .us

/-- R101: the UNIT field of a time unit. -/
def TimeUnit.toBit : TimeUnit → BitVec 1
  | .us => 0#1
  | .ms => 1#1

/-- R103, column OP. -/
def Opcode.code : Opcode → BitVec 6
  | .nop => 0x00
  | .setfreq => 0x01
  | .getfreq => 0x02
  | .getrate => 0x03
  | .tcfg => 0x08
  | .tstart => 0x09
  | .tstop => 0x0A
  | .tsetiv => 0x0B
  | .tmiss => 0x0C
  | .millis => 0x10
  | .wait => 0x11
  | .pcfg => 0x18
  | .pduty => 0x19
  | .pstart => 0x1A
  | .pstop => 0x1B
  | .pmiss => 0x1C
  | .bind => 0x20
  | .spur => 0x21
  | .rderr => 0x28

/-- R103: the row of an OP value; every value without one is reserved (R104). -/
def Opcode.ofCode (op : BitVec 6) : Option Opcode :=
  match op.toNat with
  | 0x00 => some .nop
  | 0x01 => some .setfreq
  | 0x02 => some .getfreq
  | 0x03 => some .getrate
  | 0x08 => some .tcfg
  | 0x09 => some .tstart
  | 0x0A => some .tstop
  | 0x0B => some .tsetiv
  | 0x0C => some .tmiss
  | 0x10 => some .millis
  | 0x11 => some .wait
  | 0x18 => some .pcfg
  | 0x19 => some .pduty
  | 0x1A => some .pstart
  | 0x1B => some .pstop
  | 0x1C => some .pmiss
  | 0x20 => some .bind
  | 0x21 => some .spur
  | 0x28 => some .rderr
  | _ => none

/-- R103, column "W0 fields". -/
def Opcode.fields : Opcode → UsedFields
  | .getrate => { unit := true }
  | .tcfg => { ch := true, prio := true, unit := true, handler := true }
  | .tstart | .tstop | .tsetiv | .tmiss => { ch := true }
  | .pcfg => { ch := true, port := true, prio := true, unit := true }
  | .pduty | .pstart | .pstop | .pmiss => { ch := true }
  | .bind => { port := true, pin := true, edge := true, handler := true }
  | .spur => { port := true }
  | .nop | .setfreq | .getfreq | .millis | .wait | .rderr => {}

/-- R105: every field the row does not use is zero. -/
def Header.strayFree (h : Header) (u : UsedFields) : Bool :=
  (u.ch || h.ch == 0) && (u.port || h.port == 0) && (u.pin || h.pin == 0) && (u.prio || h.prio == 0) &&
    (u.unit || h.unit == 0) && (u.edge || h.edge == 0) && (u.handler || h.handler == 0)

/-- R103: the command of a row with its field values and operand words. -/
def Opcode.build (h : Header) (w1 w2 : Word) : Opcode → Instr
  | .nop => .nop
  | .setfreq => .setfreq w1
  | .getfreq => .getfreq
  | .getrate => .getrate (.ofBit h.unit)
  | .tcfg => .tcfg h.ch h.prio (.ofBit h.unit) h.handler w1 w2
  | .tstart => .tstart h.ch
  | .tstop => .tstop h.ch
  | .tsetiv => .tsetiv h.ch w1
  | .tmiss => .tmiss h.ch
  | .millis => .millis
  | .wait => .wait w1
  | .pcfg => .pcfg h.ch h.port h.prio (.ofBit h.unit) w1 w2
  | .pduty => .pduty h.ch w1
  | .pstart => .pstart h.ch
  | .pstop => .pstop h.ch
  | .pmiss => .pmiss h.ch
  | .bind => .bind h.port h.pin h.edge h.handler
  | .spur => .spur h.port
  | .rderr => .rderr

/-- R103–R106: decoding of the three words of a command. -/
def decode (c : Command) : Decoded :=
  match Opcode.ofCode (Header.ofWord c.w0).op with
  | none => .reservedOpcode (Header.ofWord c.w0).op
  | some o =>
      if (Header.ofWord c.w0).strayFree o.fields then .ok (o.build (Header.ofWord c.w0) c.w1 c.w2) else .strayField o

/-- R81: byte `k` of a word holds bits 8k+7..8k. -/
def wordBytes (w : Word) : List Byte :=
  [w.extractLsb' 0 8, w.extractLsb' 8 8, w.extractLsb' 16 8, w.extractLsb' 24 8]

/-- R81: the word whose byte 0 is `b0`. -/
def wordOfBytes (b0 b1 b2 b3 : Byte) : Word := b3 ++ b2 ++ b1 ++ b0

/-- R81, R100: the twelve bytes of a command, W0 first. -/
def Command.bytes (c : Command) : List Byte := wordBytes c.w0 ++ wordBytes c.w1 ++ wordBytes c.w2

/-- R82: a command is a unit of three words; fewer than twelve bytes deliver none. Answers the decoding and the bytes
that are left. -/
def decodeBytes : List Byte → Decoded × List Byte
  | a0 :: a1 :: a2 :: a3 :: b0 :: b1 :: b2 :: b3 :: c0 :: c1 :: c2 :: c3 :: rest =>
      (decode ⟨wordOfBytes a0 a1 a2 a3, wordOfBytes b0 b1 b2 b3, wordOfBytes c0 c1 c2 c3⟩, rest)
  | short => (.incomplete, short)

/-- The command whose 96 bits, bit 0 the least significant bit of W0, are those of `w`. -/
def Command.ofNat (w : Nat) : Command := ⟨BitVec.ofNat 32 w, BitVec.ofNat 32 (w >>> 32), BitVec.ofNat 32 (w >>> 64)⟩

/-- The instruction this decoder reads from the low `nbits` bits of `w`, every bit above them zero. -/
def decodeTableWord (nbits w : Nat) : Option Instr :=
  match (decodeBytes (Command.ofNat (w % 2 ^ nbits)).bytes).1 with
  | .ok i => some i
  | _ => none

/-- R103: the row a command belongs to. -/
def Instr.opcode : Instr → Opcode
  | .nop => .nop
  | .setfreq _ => .setfreq
  | .getfreq => .getfreq
  | .getrate _ => .getrate
  | .tcfg .. => .tcfg
  | .tstart _ => .tstart
  | .tstop _ => .tstop
  | .tsetiv .. => .tsetiv
  | .tmiss _ => .tmiss
  | .millis => .millis
  | .wait _ => .wait
  | .pcfg .. => .pcfg
  | .pduty .. => .pduty
  | .pstart _ => .pstart
  | .pstop _ => .pstop
  | .pmiss _ => .pmiss
  | .bind .. => .bind
  | .spur _ => .spur
  | .rderr => .rderr

/-- A header with only OP set. -/
def Opcode.header (o : Opcode) : Header := ⟨o.code, 0, 0, 0, 0, 0, 0, 0⟩

/-- R101, R103: the header fields of a command; fields its row does not use are zero (R105). -/
def Instr.header (i : Instr) : Header :=
  match i with
  | .getrate u => { i.opcode.header with unit := u.toBit }
  | .tcfg c p u h _ _ => { i.opcode.header with ch := c, prio := p, unit := u.toBit, handler := h }
  | .tstart c => { i.opcode.header with ch := c }
  | .tstop c => { i.opcode.header with ch := c }
  | .tsetiv c _ => { i.opcode.header with ch := c }
  | .tmiss c => { i.opcode.header with ch := c }
  | .pcfg c p r u _ _ => { i.opcode.header with ch := c, port := p, prio := r, unit := u.toBit }
  | .pduty c _ => { i.opcode.header with ch := c }
  | .pstart c => { i.opcode.header with ch := c }
  | .pstop c => { i.opcode.header with ch := c }
  | .pmiss c => { i.opcode.header with ch := c }
  | .bind p n e h => { i.opcode.header with port := p, pin := n, edge := e, handler := h }
  | .spur p => { i.opcode.header with port := p }
  | .nop | .setfreq _ | .getfreq | .millis | .wait _ | .rderr => i.opcode.header

/-- R103, column W1; a word the row does not use is encoded as zero. -/
def Instr.w1 : Instr → Word
  | .setfreq sel => sel
  | .tcfg _ _ _ _ iv _ => iv
  | .tsetiv _ ps => ps
  | .wait d => d
  | .pcfg _ _ _ _ per _ => per
  | .pduty _ duty => duty
  | .nop | .getfreq | .getrate _ | .tstart _ | .tstop _ | .tmiss _ | .millis | .pstart _ | .pstop _ | .pmiss _
  | .bind .. | .spur _ | .rderr => 0

/-- R103, column W2; a word the row does not use is encoded as zero. -/
def Instr.w2 : Instr → Word
  | .tcfg _ _ _ _ _ ps => ps
  | .pcfg _ _ _ _ _ mask => mask
  | .nop | .setfreq _ | .getfreq | .getrate _ | .tstart _ | .tstop _ | .tsetiv .. | .tmiss _ | .millis | .wait _
  | .pduty .. | .pstart _ | .pstop _ | .pmiss _ | .bind .. | .spur _ | .rderr => 0

/-- R103: the row uses operand word W1. -/
def Opcode.usesW1 : Opcode → Bool
  | .setfreq | .tcfg | .tsetiv | .wait | .pcfg | .pduty => true
  | .nop | .getfreq | .getrate | .tstart | .tstop | .tmiss | .millis | .pstart | .pstop | .pmiss | .bind | .spur
  | .rderr => false

/-- R103: the row uses operand word W2. -/
def Opcode.usesW2 : Opcode → Bool
  | .tcfg | .pcfg => true
  | .nop | .setfreq | .getfreq | .getrate | .tstart | .tstop | .tsetiv | .tmiss | .millis | .wait | .pduty | .pstart
  | .pstop | .pmiss | .bind | .spur | .rderr => false

/-- The encoder: the three words of a command (R100–R103, R109). -/
def encode (i : Instr) : Command := ⟨i.header.toWord, i.w1, i.w2⟩

/-- R105, column "match". -/
def Opcode.pattern : Opcode → Word
  | .nop => 0x00000000
  | .setfreq => 0x00000001
  | .getfreq => 0x00000002
  | .getrate => 0x00000003
  | .tcfg => 0x00000008
  | .tstart => 0x00000009
  | .tstop => 0x0000000A
  | .tsetiv => 0x0000000B
  | .tmiss => 0x0000000C
  | .millis => 0x00000010
  | .wait => 0x00000011
  | .pcfg => 0x00000018
  | .pduty => 0x00000019
  | .pstart => 0x0000001A
  | .pstop => 0x0000001B
  | .pmiss => 0x0000001C
  | .bind => 0x00000020
  | .spur => 0x00000021
  | .rderr => 0x00000028

/-- R105, column "mask". -/
def Opcode.mask : Opcode → Word
  | .nop => 0xFFFFFFFF
  | .setfreq => 0xFFFFFFFF
  | .getfreq => 0xFFFFFFFF
  | .getrate => 0xFFDFFFFF
  | .tcfg => 0x00C3FC3F
  | .tstart => 0xFFFFFC3F
  | .tstop => 0xFFFFFC3F
  | .tsetiv => 0xFFFFFC3F
  | .tmiss => 0xFFFFFC3F
  | .millis => 0xFFFFFFFF
  | .wait => 0xFFFFFFFF
  | .pcfg => 0xFFC3C03F
  | .pduty => 0xFFFFFC3F
  | .pstart => 0xFFFFFC3F
  | .pstop => 0xFFFFFC3F
  | .pmiss => 0xFFFFFC3F
  | .bind => 0x003C03FF
  | .spur => 0xFFFFC3FF
  | .rderr => 0xFFFFFFFF

/-- R105: `W0 & mask = match`. -/
def Opcode.matchesWord (o : Opcode) (w0 : Word) : Bool := w0 &&& o.mask == o.pattern

end Sys2Proof
end

