-- ==== Sys2Proof/Machine/State.lean ====
section
/-! DEFINITION. The architectural state of spec/10_state.md (R30, R33–R47) as plain data, the model's own fields beside
it, the closed reasons of a stop, and the state after reset (spec/70_reset_and_hazards.md R340).

Banks of channels, ports and pins have 16 places, one per value of the 4-bit index fields (R101); only those below
N_TMR, N_PWM, N_PORT and N_PIN exist, and no step reads or writes the others. A field whose width is a parameter
(CNT_W, N_PIN) holds a number or word that the invariants of Sys2Proof/Safety.lean bound to that width. -/

namespace Sys2Proof.Machine

/-- The model faults (R303). A command that breaks a contract sets State.fault to one of these and changes nothing else;
from then on no step is enabled (R304) and `step` stops with it. Safe: the source leaves these programs undefined, and
a stopped machine proves nothing about them (D15, D41). -/
inductive Fault where
  /-- raised by TCFG and PCFG while no frequency is selected; safe -/
  | freqUnset
  /-- raised by a SETFREQ that changes the frequency after any channel is configured; safe -/
  | freqChangeAfterConfigure
  /-- raised by TCFG of an enabled timer channel and PCFG of an enabled PWM channel; safe -/
  | reconfigureWhileRunning
  /-- raised by PCFG whose pin mask has zero or several bits; safe -/
  | pinMaskInvalid
deriving DecidableEq, Repr, Inhabited

/-- What the model has no meaning for. -/
inductive Refusal where
  /-- raised by an arm of `exec` whose instruction has no meaning in this model (no arm does); safe -/
  | notModelled (mnemonic : String)
  /-- raised by `step` on a configuration outside the ranges of R7 and R9, which the spec refuses; safe -/
  | badConfiguration
deriving DecidableEq, Repr

/-- A countdown timer channel (R34). -/
structure TimerChannel where
  /-- CNT_W bits: the period in counts; 0 means not configured -/
  periodTicks : Nat
  /-- CNT_W bits: the free-running hardware counter -/
  counter : Nat
  /-- period events since the last fire -/
  softCounter : BitVec 32
  /-- postscale: period events per callback -/
  softCountMax : BitVec 32
  /-- handler id; 0 means absent -/
  callback : HandlerId
  /-- interrupt level; 0 means disabled -/
  priority : Level
  /-- counting, and the interrupt unmasked -/
  enabled : Bool
  /-- period-event interrupt flag -/
  IF : Bool
  /-- period events coalesced into a pending one, saturating -/
  missed : BitVec 32
deriving DecidableEq, Repr

/-- The millisecond clock's fields beside timer channel 0 (R36). -/
structure MsClock where
  millisCounter : BitVec 32
  waitCounter : BitVec 32
  isWaiting : Bool
deriving DecidableEq, Repr

/-- A PWM compare-pair channel (R38). -/
structure PwmChannel where
  /-- port of the driven pin -/
  port : Index
  /-- N_PIN bits: exactly one GPIO bit; 0 means not configured -/
  pinMask : Word
  /-- CNT_W bits: the clamped period in counts -/
  periodTicks : Nat
  /-- the duty fraction, Q16, 0..65536 -/
  dutyFrac : BitVec 17
  /-- CNT_W bits: the compare value -/
  dutyTicks : Nat
  /-- CNT_W bits: the hardware counter -/
  counter : Nat
  /-- interrupt level of both events -/
  priority : Level
  /-- counting, and both interrupts unmasked -/
  enabled : Bool
  /-- event A (rollover) pending -/
  IFA : Bool
  /-- event B (compare) pending -/
  IFB : Bool
  /-- A or B events coalesced into a pending one, saturating -/
  missed : BitVec 32
deriving DecidableEq, Repr

/-- A pin (R41). -/
structure Pin where
  /-- edge-detect configuration -/
  edge : EdgeMode
  /-- the bound handler, 0 = absent -/
  handler : HandlerId
  /-- the pin's change flag -/
  changeFlag : Bool
  /-- the level the block last drove onto the pin; `none` means never driven -/
  outLevel : Option PinLevel
deriving DecidableEq, Repr

/-- A port's shared pin-change interrupt (R42). -/
structure Port where
  /-- the port-level flag -/
  flag : Bool
  /-- the shared interrupt is enabled -/
  IE : Bool
  /-- change flags cleared with no handler bound, saturating -/
  spurious : BitVec 32
deriving DecidableEq, Repr

/-- The kind of a code context (R46). -/
inductive ContextKind where
  | fg
  | timerCB (c : Index)
  | pinCB (p i : Index)
deriving DecidableEq, Repr, Inhabited

/-- An entry of the context stack (R46). -/
inductive Context where
  /-- a code context; `wait` is `some d` while it spins in a WAIT for duration `d` -/
  | code (kind : ContextKind) (level : Level) (wait : Option Word)
  /-- a dispatch service of port `p` in progress, which will next examine pins `cursor`.. N_PIN−1 -/
  | dispatch (p : Index) (level : Level) (cursor : Nat)
deriving DecidableEq, Repr, Inhabited

/-- The source of a callback invocation (R47, R318). -/
inductive CallbackSource where
  | tmr (c : Index)
  | pin (p i : Index)
deriving DecidableEq, Repr, Inhabited

/-- The command a Result event names (R47, R277). -/
inductive LogOp where
  | op (o : Opcode)
  | illegalCmd
deriving DecidableEq, Repr, Inhabited

/-- An entry of the event log (R47). -/
inductive LogEvent where
  /-- a callback for handler `h` began -/
  | invoke (src : CallbackSource) (h : HandlerId)
  /-- the block drove PWM pin (p, i) to `level` -/
  | drive (p i : Index) (level : PinLevel)
  /-- a command completed -/
  | result (op : LogOp) (status : Status) (value : Word)
deriving DecidableEq, Repr, Inhabited

/-- The state of the block (R30), the parameters it was built with, and the model's own record of what the host's
parties do next. -/
structure State where
  /-- the implementation parameters (R7), written by no step; the model's own field, not the spec's state (R30) -/
  cfg : Config
  /-- R33: the selected ClockFrequency -/
  freqSel : Option Word
  /-- R34: timer channels 0..N_TMR−1 -/
  tmr : Vector TimerChannel 16
  /-- R36: the millisecond clock -/
  ms : MsClock
  /-- R38: PWM channels 0..N_PWM−1 -/
  pwm : Vector PwmChannel 16
  /-- R41: pins, by port and pin index -/
  pin : Vector (Vector Pin 16) 16
  /-- R42: ports 0..N_PORT−1 -/
  port : Vector Port 16
  /-- R44: status code of the most recent failed command -/
  lastError : Status
  /-- R45: the model fault -/
  fault : Option Fault
  /-- R46: the context stack, its top entry first -/
  ctx : List Context
  /-- R47: the event log, oldest entry first -/
  events : List LogEvent
  /-- the model's own field: the next choices of the host's parties (R335), the nearest first -/
  inbox : List Event
  /-- the model's own field: how many choices were read from `Config.environment` -/
  choiceIndex : Nat
deriving DecidableEq, Repr

/-- R340, R34: a timer channel after reset, created disabled. -/
def TimerChannel.reset : TimerChannel := ⟨0, 0, 0, 0, 0, 0, false, false, 0⟩

/-- R340, R36: the millisecond clock after reset. -/
def MsClock.reset : MsClock := ⟨0, 0, false⟩

/-- R340, R38: a PWM channel after reset. -/
def PwmChannel.reset : PwmChannel := ⟨0, 0, 0, 0, 0, 0, 0, false, false, false, 0⟩

/-- R340, R41: a pin after reset, not monitored and never driven. -/
def Pin.reset : Pin := ⟨.none, 0, false, none⟩

/-- R340, R42: a port after reset. -/
def Port.reset : Port := ⟨false, false, 0⟩

/-- R340: the state after reset of a block built with the parameters `cfg`. -/
def State.resetWith (cfg : Config) : State where
  cfg := cfg
  freqSel := none
  tmr := Vector.replicate 16 TimerChannel.reset
  ms := MsClock.reset
  pwm := Vector.replicate 16 PwmChannel.reset
  pin := Vector.replicate 16 (Vector.replicate 16 Pin.reset)
  port := Vector.replicate 16 Port.reset
  lastError := .ok
  fault := none
  ctx := [.code .fg 0 none]
  events := []
  inbox := []
  choiceIndex := 0

/-- R340, with the parameters of `Config.vectors` (assumption 1), no choice of the host's parties placed, and none read
(assumption 3). -/
def State.reset : State := State.resetWith Config.vectors

end Sys2Proof.Machine
end

