-- ==== Sys2Proof/Machine/Ops.lean ====
section
/-! DEFINITION. The named operations over the state: reading and writing one channel, pin or port; the effect
primitives of spec/00_scope.md R12; completing a command (spec/45_status_and_control.md R272); raising a model fault
(spec/60_exceptions.md R303); and the context stack: entering an interrupt (R315, R318) and returning from one (R320). -/

namespace Sys2Proof.Machine

/-- The outcome type of every meaning. -/
abbrev Result := Host.Outcome State Fault Refusal

/-! ### Banks -/

/-- One place of a bank, named by a 4-bit index. -/
def bankGet {α : Type} (v : Vector α 16) (c : Index) : α := v[c.toNat]'c.isLt

/-- A bank with one place written. -/
def bankSet {α : Type} (v : Vector α 16) (c : Index) (x : α) : Vector α 16 := v.set c.toNat x c.isLt

/-- A bank with every place below `n` changed by `f`; the places from `n` on do not exist (R7). -/
def bankMapBelow {α : Type} (n : Nat) (f : α → α) (v : Vector α 16) : Vector α 16 :=
  Vector.ofFn fun c => if c.val < n then f v[c] else v[c]

/-- The sixteen index values. -/
def indices : List Index := (List.range 16).map (BitVec.ofNat 4)

/-! ### State access (R12) -/

/-- `tmr[c]`. -/
def State.tmrAt (s : State) (c : Index) : TimerChannel := bankGet s.tmr c

/-- `tmr[c] <- t`. -/
def State.setTmr (s : State) (c : Index) (t : TimerChannel) : State := { s with tmr := bankSet s.tmr c t }

/-- `pwm[c]`. -/
def State.pwmAt (s : State) (c : Index) : PwmChannel := bankGet s.pwm c

/-- `pwm[c] <- w`. -/
def State.setPwm (s : State) (c : Index) (w : PwmChannel) : State := { s with pwm := bankSet s.pwm c w }

/-- `pin[p][i]`. -/
def State.pinAt (s : State) (p i : Index) : Pin := bankGet (bankGet s.pin p) i

/-- `pin[p][i] <- x`. -/
def State.setPin (s : State) (p i : Index) (x : Pin) : State :=
  { s with pin := bankSet s.pin p (bankSet (bankGet s.pin p) i x) }

/-- `port[p]`. -/
def State.portAt (s : State) (p : Index) : Port := bankGet s.port p

/-- `port[p] <- q`. -/
def State.setPort (s : State) (p : Index) (q : Port) : State := { s with port := bankSet s.port p q }

/-! ### Effects (R12) -/

/-- `log(e)`: append to the event log (R47). -/
def State.log (s : State) (e : LogEvent) : State := { s with events := s.events ++ [e] }

/-- `drive(p, i, level)`: the pin takes the level, then the event is logged. -/
def State.drive (s : State) (p i : Index) (level : PinLevel) : State :=
  (s.setPin p i { s.pinAt p i with outLevel := some level }).log (.drive p i level)

/-- R272: a completing command records a non-OK status in `lastError` and logs its result. The log entry is also the
delivery of the status and value to the issuing context, which is outside the block (assumption 6). -/
def State.complete (s : State) (op : LogOp) (status : Status) (value : Word) : State :=
  { s with
    lastError := if status = .ok then s.lastError else status
    events := s.events ++ [.result op status value] }

/-- `return (status, value)` of a command of row `o`, as the outcome of its step. -/
def finish (o : Opcode) (status : Status) (value : Word) (s : State) : Result :=
  .next (s.complete (.op o) status value)

/-- R300: completion with a non-OK status; the value returned with it is 0. -/
def fail (o : Opcode) (status : Status) (s : State) : Result := finish o status 0 s

/-- R303: raising a model fault writes `fault` and nothing else; no result is logged. -/
def raiseFault (r : Fault) (s : State) : Result := .next { s with fault := some r }

/-! ### The context stack (R46) -/

/-- The level of an entry. -/
def Context.level : Context → Level
  | .code _ l _ => l
  | .dispatch _ l _ => l

/-- The level of the top of a stack; 0 for the empty list, which is no stack (R46). -/
def levelOf : List Context → Level
  | [] => 0
  | c :: _ => c.level

/-- R46: the current level L(S), the level of the top entry. -/
def State.currentLevel (s : State) : Level := levelOf s.ctx

/-- R315: entering an interrupt saves nothing but the stack: the interrupted entries stay unchanged and the new entry
becomes the top, whose level is now the current level. -/
def State.enter (s : State) (entry : Context) : State := { s with ctx := entry :: s.ctx }

/-- R318: the code context that a callback from `src` runs in. -/
def CallbackSource.kind : CallbackSource → ContextKind
  | .tmr c => .timerCB c
  | .pin p i => .pinCB p i

/-- R318: `invoke(src, h)` at the source's level: push the callback's context, then log the invocation. -/
def State.invoke (s : State) (src : CallbackSource) (h : HandlerId) (level : Level) : State :=
  (s.enter (.code src.kind level none)).log (.invoke src h)

/-- R312, row PCN: push the dispatch service of port `p`, to examine pins from 0. -/
def State.enterDispatch (s : State) (p : Index) : State :=
  s.enter (.dispatch p (bankGet s.cfg.portPrio p) 0)

/-- R192, R270: the top is a code context that is not spinning. -/
def State.codeOnTop (s : State) : Bool :=
  match s.ctx with
  | .code _ _ none :: _ => true
  | _ => false

/-- `top.wait <- w` (R190, R192), for a code context on top. -/
def setTopWait (w : Option Word) : List Context → List Context
  | .code k l _ :: rest => .code k l w :: rest
  | stack => stack

/-- `top.wait <- w` (R190, R192). -/
def State.setWait (s : State) (w : Option Word) : State := { s with ctx := setTopWait w s.ctx }

/-- R320: a callback that is not spinning may return; the foreground never does. -/
def State.canReturn (s : State) : Bool :=
  match s.ctx with
  | .code (.timerCB _) _ none :: _ => true
  | .code (.pinCB _ _) _ none :: _ => true
  | _ => false

/-- `top.cursor <- k` (R255, R320), for a dispatch entry on top. -/
def setCursor (k : Nat) : List Context → List Context
  | .dispatch p l _ :: rest => .dispatch p l k :: rest
  | stack => stack

/-- R320: Return pops the callback's entry, which restores the previous level. After a pin callback the pin's change
flag is cleared and the dispatch beneath goes on with the next pin. -/
def State.returnFromCallback (s : State) : State :=
  match s.ctx with
  | .code (.timerCB _) _ none :: rest => { s with ctx := rest }
  | .code (.pinCB p j) _ none :: rest =>
      { s.setPin p j { s.pinAt p j with changeFlag := false } with ctx := setCursor (j.toNat + 1) rest }
  | _ => s

end Sys2Proof.Machine
end

