-- ==== Sys2Proof/Machine/Operands.lean ====
section
/-! DEFINITION. The operand forms of the commands: the clock-rate lookup and the conversion of time operands
(spec/40_clock_rate_table.md R130, R131), the PWM period and duty conversions (spec/43_pwm_compare_pair.md R201, R211),
the one-hot pin mask (spec/30_encoding.md R102), pin claims (spec/43_pwm_compare_pair.md R202, spec/10_state.md R43)
and the EDGE field (spec/44_pin_interrupt_dispatcher.md R241). -/

namespace Sys2Proof.Machine

/-- R130: `rate(f, UNIT)`. -/
def rate (cfg : Config) (f : Word) (u : TimeUnit) : Word := (cfg.rates.getD f.toNat default).count u

/-- R131: `ticksFor(UNIT, n)` at frequency `f`, the exact product. -/
def ticksFor (cfg : Config) (f : Word) (u : TimeUnit) (n : Word) : Nat := n.toNat * (rate cfg f u).toNat

/-- R7: the largest value of a CNT_W-bit register, 2^CNT_W − 1. -/
def maxCount (cfg : Config) : Nat := 2 ^ cfg.cntW - 1

/-- R11: `clamp(v, lo, hi)`. -/
def clamp (v lo hi : Nat) : Nat := min (max v lo) hi

/-- R201: `pwmPeriod(UNIT, n)` at frequency `f`. -/
def pwmPeriod (cfg : Config) (f : Word) (u : TimeUnit) (n : Word) : Nat :=
  clamp (ticksFor cfg f u n) cfg.pwmMin cfg.pwmMax

/-- R210: the Q16 duty numerator, clamped to 65536. -/
def clampDuty (w : Word) : BitVec 17 := BitVec.ofNat 17 (min w.toNat 65536)

/-- R211: `dutyTicksOf(f, P)`, rounded half up. -/
def dutyTicksOf (f : BitVec 17) (period : Nat) : Nat := (f.toNat * period + 32768) / 65536

/-- R10: the number of set bits of a mask. -/
def popcount (m : Word) : Nat := (List.range 32).countP fun k => m.getLsbD k

/-- R10: `log2(m)` for a mask with one bit set: the index of that bit. -/
def maskIndex (m : Word) : Nat := ((List.range 32).find? fun k => m.getLsbD k).getD 0

/-- The driven pin of a PWM channel, `log2(pinMask)`, as a pin index. -/
def PwmChannel.pinIndex (w : PwmChannel) : Index := BitVec.ofNat 4 (maskIndex w.pinMask)

/-- R43: the PWM channel with this state claims pin (p, i). -/
def PwmChannel.claims (w : PwmChannel) (p : Index) (i : Nat) : Bool :=
  decide (w.pinMask ≠ 0 ∧ w.port = p ∧ maskIndex w.pinMask = i)

/-- R240: some existing PWM channel holds pin (p, i). -/
def State.pwmHolds (s : State) (p : Index) (i : Nat) : Bool :=
  indices.any fun c => decide (c.toNat < s.cfg.nPwm) && (s.pwmAt c).claims p i

/-- R202: pin (p, i) is free for PWM channel `c`. -/
def State.pinFree (s : State) (c p i : Index) : Bool :=
  decide ((s.pinAt p i).edge = .none) &&
    !(indices.any fun c' => decide (c' ≠ c ∧ c'.toNat < s.cfg.nPwm) && (s.pwmAt c').claims p i.toNat)

/-- R14, R132: some timer or PWM channel is configured. -/
def State.anyConfigured (s : State) : Bool :=
  (indices.any fun c => decide (c.toNat < s.cfg.nTmr ∧ (s.tmrAt c).periodTicks ≥ 1)) ||
    (indices.any fun c => decide (c.toNat < s.cfg.nPwm ∧ (s.pwmAt c).pinMask ≠ 0))

/-- R241: the edge mode an EDGE field selects; 0b00 is reserved and selects none. -/
def decodeEdge (e : BitVec 2) : EdgeMode :=
  match e.toNat with
  | 1 => .rising
  | 2 => .falling
  | 3 => .either
  | _ => .none

/-- R241: the edge `dir` matches the configuration. -/
def edgeMatches : EdgeMode → EdgeDir → Bool
  | .rising, .rise => true
  | .falling, .fall => true
  | .either, _ => true
  | _, _ => false

/-- R205, R216: the level of time 0 of a PWM cycle. -/
def PwmChannel.startLevel (w : PwmChannel) : PinLevel := if w.dutyTicks > 0 then .high else .low

end Sys2Proof.Machine
end

