-- ==== Sys2Proof/Machine/Flags.lean ====
section
/-! DEFINITION. The flags of the block: how a period or compare event sets its pending flag or is coalesced
(spec/41_countdown_timer_engine.md R161, spec/43_pwm_compare_pair.md R215), the waveform mode that decides whether a
compare event exists (spec/10_state.md R40), and what makes an interrupt source pending, unmasked and eligible
(spec/60_exceptions.md R310–R314). -/

namespace Sys2Proof.Machine

/-- R11: `sat_32(v + 1)`. -/
def satInc (v : BitVec 32) : BitVec 32 := BitVec.ofNat 32 (min (v.toNat + 1) (2 ^ 32 - 1))

/-- R161: a period event sets the flag, or is coalesced into a pending one and counted. -/
def periodEvent (t : TimerChannel) : TimerChannel :=
  if t.IF then { t with missed := satInc t.missed } else { t with IF := true }

/-- R215: event A, coalesced when already pending. -/
def eventA (w : PwmChannel) : PwmChannel :=
  if w.IFA then { w with missed := satInc w.missed } else { w with IFA := true }

/-- R215: event B, coalesced when already pending. -/
def eventB (w : PwmChannel) : PwmChannel :=
  if w.IFB then { w with missed := satInc w.missed } else { w with IFB := true }

/-- R40: the waveform mode of a PWM channel, a function of its state. -/
inductive PwmMode where
  | allLow
  | allHigh
  | normal
deriving DecidableEq, Repr

/-- R40. -/
def PwmChannel.mode (w : PwmChannel) : PwmMode :=
  if w.dutyTicks = 0 then .allLow
  else if w.dutyTicks = w.periodTicks ∧ w.periodTicks ≥ 1 then .allHigh
  else .normal

/-- R310: the source exists in this configuration. -/
def sourceExists (cfg : Config) : Source → Bool
  | .tmr c => decide (c.toNat < cfg.nTmr)
  | .pwmA c => decide (c.toNat < cfg.nPwm)
  | .pwmB c => decide (c.toNat < cfg.nPwm)
  | .pcn p => decide (p.toNat < cfg.nPort)

/-- R310, column "pending flag". -/
def State.pending (s : State) : Source → Bool
  | .tmr c => (s.tmrAt c).IF
  | .pwmA c => (s.pwmAt c).IFA
  | .pwmB c => (s.pwmAt c).IFB
  | .pcn p => (s.portAt p).flag

/-- R310, column "unmasked when". -/
def State.unmasked (s : State) : Source → Bool
  | .tmr c => (s.tmrAt c).enabled
  | .pwmA c => (s.pwmAt c).enabled
  | .pwmB c => (s.pwmAt c).enabled
  | .pcn p => (s.portAt p).IE

/-- R310, column "level". -/
def State.sourceLevel (s : State) : Source → Level
  | .tmr c => (s.tmrAt c).priority
  | .pwmA c => (s.pwmAt c).priority
  | .pwmB c => (s.pwmAt c).priority
  | .pcn p => bankGet s.cfg.portPrio p

/-- R312: eligible: pending, unmasked, and at a level strictly above the current level. -/
def State.eligible (s : State) (src : Source) : Bool :=
  sourceExists s.cfg src && s.pending src && s.unmasked src &&
    decide ((s.sourceLevel src).toNat > s.currentLevel.toNat)

/-- Every source an index can name; `sourceExists` keeps those of the configuration. -/
def allSources : List Source :=
  indices.flatMap fun c => [.tmr c, .pwmA c, .pwmB c, .pcn c]

/-- R312, R313: a Take of `src` is allowed: it is eligible and no eligible source has a higher level. -/
def State.takeable (s : State) (src : Source) : Bool :=
  s.eligible src &&
    allSources.all fun r => !(s.eligible r) || decide ((s.sourceLevel r).toNat ≤ (s.sourceLevel src).toNat)

end Sys2Proof.Machine
end

