-- ==== Sys2Proof/Machine/ClockRate.lean ====
section
/-! DEFINITION. The clock-rate lookup table's commands (spec/40_clock_rate_table.md R132–R134). -/

namespace Sys2Proof.Machine

/-- R132: SETFREQ. -/
def execSetfreq (sel : Word) (s : State) : Result :=
  if sel.toNat ≥ s.cfg.nFreq then fail .setfreq .configErr s
  else if s.freqSel = some sel then finish .setfreq .ok 0 s
  else if s.anyConfigured then raiseFault .freqChangeAfterConfigure s
  else finish .setfreq .ok 0 { s with freqSel := some sel }

/-- R133: GETFREQ. -/
def execGetfreq (s : State) : Result :=
  match s.freqSel with
  | some f => finish .getfreq .ok f s
  | none => fail .getfreq .configErr s

/-- R134: GETRATE. -/
def execGetrate (unit : TimeUnit) (s : State) : Result :=
  match s.freqSel with
  | some f => finish .getrate .ok (rate s.cfg f unit) s
  | none => fail .getrate .configErr s

end Sys2Proof.Machine
end

