-- ==== Sys2Proof/Machine/PinChange.lean ====
section
/-! DEFINITION. The pin-change interrupt dispatcher: BIND and SPUR (spec/44_pin_interrupt_dispatcher.md R240–R242), the
two flag-setting environment steps (R250, R251) and the DispatchStep (R255). -/

namespace Sys2Proof.Machine

/-- R240: BIND. -/
def execBind (port pin : Index) (edge : BitVec 2) (handler : HandlerId) (s : State) : Result :=
  if port.toNat ≥ s.cfg.nPort ∨ pin.toNat ≥ s.cfg.nPin then fail .bind .configErr s
  else if edge = 0 then fail .bind .configErr s
  else if s.pwmHolds port pin.toNat then fail .bind .conflictErr s
  else
    finish .bind .ok 0
      ((s.setPin port pin
          { s.pinAt port pin with changeFlag := false, edge := decodeEdge edge, handler := handler }).setPort port
        { s.portAt port with flag := false, IE := true })

/-- R242: SPUR. -/
def execSpur (port : Index) (s : State) : Result :=
  if port.toNat ≥ s.cfg.nPort then fail .spur .configErr s
  else finish .spur .ok (s.portAt port).spurious s

/-- R250, R251: the pin's change flag and the port's flag are set together. -/
def State.flagPin (s : State) (p i : Index) : State :=
  (s.setPin p i { s.pinAt p i with changeFlag := true }).setPort p { s.portAt p with flag := true }

/-- R250: an edge sets the flags when it matches the pin's configuration. -/
def pinEdge (p i : Index) (dir : EdgeDir) (s : State) : State :=
  if edgeMatches (s.pinAt p i).edge dir then s.flagPin p i else s

/-- R251: a flag set with no matching edge. -/
def spuriousFlag (p i : Index) (s : State) : State := s.flagPin p i

/-- R255: the least pin at or after the cursor whose change flag is set (ascending order, D32). -/
def State.nextFlagged (s : State) (p : Index) (cursor : Nat) : Option Index :=
  indices.find? fun j => decide (cursor ≤ j.toNat ∧ j.toNat < s.cfg.nPin) && (s.pinAt p j).changeFlag

/-- R255: one step of the dispatch of port `p` at level `l` that is on top of the stack `⟨p, l, cursor⟩ :: rest`. -/
def dispatchPort (p : Index) (l : Level) (cursor : Nat) (rest : List Context) (s : State) : State :=
  match s.nextFlagged p cursor with
  | none => { s.setPort p { s.portAt p with flag := false } with ctx := rest }
  | some j =>
      if (s.pinAt p j).handler ≠ 0 then
        { s with ctx := .dispatch p l j.toNat :: rest }.invoke (.pin p j) (s.pinAt p j).handler l
      else
        { (s.setPin p j { s.pinAt p j with changeFlag := false }).setPort p
            { s.portAt p with spurious := satInc (s.portAt p).spurious } with
          ctx := .dispatch p l (j.toNat + 1) :: rest }

/-- R255: DispatchStep, for a dispatch entry on top. -/
def dispatchStep (s : State) : State :=
  match s.ctx with
  | .dispatch p l cursor :: rest => dispatchPort p l cursor rest s
  | _ => s

end Sys2Proof.Machine
end

