-- ==== Sys2Proof/Machine/Postscale.lean ====
section
/-! DEFINITION. The periodic postscale counter and the millisecond clock: the timer service
(spec/42_periodic_postscale_counter.md R180–R182), MILLIS and WAIT (R183–R190) and the Spin step (R192). -/

namespace Sys2Proof.Machine

/-- R180: the timer service brings `softCounter + 1` to `softCountMax` or beyond. The sum is exact (R11). -/
def TimerChannel.fires (t : TimerChannel) : Bool := decide (t.softCounter.toNat + 1 ≥ t.softCountMax.toNat)

/-- R180: a timer channel after its service: the flag cleared at entry, the postscale counter advanced or restarted. -/
def TimerChannel.served (t : TimerChannel) : TimerChannel :=
  { t with
    IF := false
    softCounter := if t.fires then 0 else BitVec.ofNat 32 (t.softCounter.toNat + 1) }

/-- R180, R184: the millisecond clock after a service of channel 0; both counters wrap. -/
def MsClock.served (m : MsClock) : MsClock :=
  { m with
    millisCounter := m.millisCounter + 1
    waitCounter := if m.isWaiting then m.waitCounter + 1 else m.waitCounter }

/-- R180: the timer service of channel `c`, with its callback if the service fires and a handler is registered. -/
def timerService (c : Index) (s : State) : State :=
  let t := s.tmrAt c
  let s' := (if c = 0 then { s with ms := s.ms.served } else s).setTmr c t.served
  if t.fires ∧ t.callback ≠ 0 then s'.invoke (.tmr c) t.callback t.priority else s'

/-- R183: MILLIS. -/
def execMillis (s : State) : Result := finish .millis .ok s.ms.millisCounter s

/-- R190: WAIT starts: the context spins, and the command completes in a later Spin. -/
def execWait (d : Word) (s : State) : Result :=
  .next ({ s with ms := { s.ms with waitCounter := 0, isWaiting := true } }.setWait (some d))

/-- R192: the duration the top context spins for. -/
def State.spinning (s : State) : Option Word :=
  match s.ctx with
  | .code _ _ (some d) :: _ => some d
  | _ => none

/-- R192: one poll of the busy-wait of duration `d`. -/
def spin (d : Word) (s : State) : State :=
  if s.ms.waitCounter.toNat ≥ d.toNat then
    ({ s with ms := { s.ms with isWaiting := false } }.setWait none).complete (.op .wait) .ok 0
  else s

end Sys2Proof.Machine
end

