-- ==== Sys2Proof/Machine/Pwm.lean ====
section
/-! DEFINITION. The PWM compare-pair controller: its five commands (spec/43_pwm_compare_pair.md R200–R211), the counting
of a PWM channel at a Tick (R215) and its two services (R216, R217). -/

namespace Sys2Proof.Machine

/-- R200: PCFG. -/
def execPcfg (ch port : Index) (prio : Level) (unit : TimeUnit) (per mask : Word) (s : State) : Result :=
  if ch.toNat ≥ s.cfg.nPwm then fail .pcfg .configErr s
  else
    match s.freqSel with
    | none => raiseFault .freqUnset s
    | some f =>
        if (s.pwmAt ch).enabled then raiseFault .reconfigureWhileRunning s
        else if popcount mask ≠ 1 then raiseFault .pinMaskInvalid s
        else if port.toNat ≥ s.cfg.nPort ∨ maskIndex mask ≥ s.cfg.nPin then fail .pcfg .configErr s
        else if ¬ s.pinFree ch port (BitVec.ofNat 4 (maskIndex mask)) then fail .pcfg .conflictErr s
        else
          finish .pcfg .ok 0 (s.setPwm ch { s.pwmAt ch with
            port := port
            pinMask := mask
            periodTicks := pwmPeriod s.cfg f unit per
            priority := prio
            counter := 0
            dutyTicks := dutyTicksOf (s.pwmAt ch).dutyFrac (pwmPeriod s.cfg f unit per) })

/-- R210: PDUTY. -/
def execPduty (ch : Index) (duty : Word) (s : State) : Result :=
  if ch.toNat ≥ s.cfg.nPwm then fail .pduty .configErr s
  else
    finish .pduty .ok 0 (s.setPwm ch { s.pwmAt ch with
      dutyFrac := clampDuty duty
      dutyTicks := dutyTicksOf (clampDuty duty) (s.pwmAt ch).periodTicks })

/-- R205: PSTART. -/
def execPstart (ch : Index) (s : State) : Result :=
  if ch.toNat ≥ s.cfg.nPwm ∨ (s.pwmAt ch).pinMask = 0 then fail .pstart .configErr s
  else if (s.pwmAt ch).enabled then finish .pstart .ok 0 s
  else
    finish .pstart .ok 0
      ((s.setPwm ch { s.pwmAt ch with counter := 0, IFA := false, IFB := false, missed := 0, enabled := true }).drive
        (s.pwmAt ch).port (s.pwmAt ch).pinIndex (s.pwmAt ch).startLevel)

/-- R206: PSTOP. -/
def execPstop (ch : Index) (s : State) : Result :=
  if ch.toNat ≥ s.cfg.nPwm then fail .pstop .configErr s
  else finish .pstop .ok 0 (s.setPwm ch { s.pwmAt ch with enabled := false, IFA := false, IFB := false })

/-- R207: PMISS. -/
def execPmiss (ch : Index) (s : State) : Result :=
  if ch.toNat ≥ s.cfg.nPwm then fail .pmiss .configErr s
  else finish .pmiss .ok (s.pwmAt ch).missed s

/-- R215: the counter value after one count. -/
def PwmChannel.nextCount (w : PwmChannel) : Nat := if w.counter + 1 ≥ w.periodTicks then 0 else w.counter + 1

/-- R215: one count of a running PWM channel: event A at rollover, event B at the compare value in Normal mode only. -/
def pwmCount (w : PwmChannel) : PwmChannel :=
  let w1 := { w with counter := w.nextCount }
  let w2 := if w.nextCount = 0 then eventA w1 else w1
  if w.mode = .normal ∧ w.nextCount = w.dutyTicks then eventB w2 else w2

/-- R160: a stopped PWM channel does not count. -/
def tickPwm (w : PwmChannel) : PwmChannel := if w.enabled then pwmCount w else w

/-- R216: service A drives the level of time 0 of the cycle. -/
def pwmServiceA (c : Index) (s : State) : State :=
  (s.setPwm c { s.pwmAt c with IFA := false }).drive (s.pwmAt c).port (s.pwmAt c).pinIndex (s.pwmAt c).startLevel

/-- R217: service B drives the pin low unless the channel is now all-high. -/
def pwmServiceB (c : Index) (s : State) : State :=
  let s' := s.setPwm c { s.pwmAt c with IFB := false }
  if (s.pwmAt c).dutyTicks < (s.pwmAt c).periodTicks then s'.drive (s.pwmAt c).port (s.pwmAt c).pinIndex .low else s'

end Sys2Proof.Machine
end

