-- ==== Sys2Proof/Machine/Timer.lean ====
section
/-! DEFINITION. The countdown timer engine: its five commands (spec/41_countdown_timer_engine.md R150–R157) and the
counting of a timer channel at a Tick (R160, R161). -/

namespace Sys2Proof.Machine

/-- R150, R151: TCFG. -/
def execTcfg (ch : Index) (prio : Level) (unit : TimeUnit) (handler : HandlerId) (iv ps : Word) (s : State) : Result :=
  if ch.toNat ≥ s.cfg.nTmr then fail .tcfg .configErr s
  else
    match s.freqSel with
    | none => raiseFault .freqUnset s
    | some f =>
        if (s.tmrAt ch).enabled then raiseFault .reconfigureWhileRunning s
        else if ticksFor s.cfg f unit iv = 0 ∨ ticksFor s.cfg f unit iv > maxCount s.cfg then fail .tcfg .configErr s
        else if ps = 0 then fail .tcfg .configErr s
        else if ch = 0 ∧ ¬(unit = .ms ∧ iv = 1 ∧ ps = 1) then fail .tcfg .configErr s
        else
          finish .tcfg .ok 0 (s.setTmr ch { s.tmrAt ch with
            periodTicks := ticksFor s.cfg f unit iv
            softCountMax := ps
            callback := handler
            priority := prio
            counter := 0 })

/-- R152: TSETIV. -/
def execTsetiv (ch : Index) (ps : Word) (s : State) : Result :=
  if ch.toNat ≥ s.cfg.nTmr then fail .tsetiv .configErr s
  else if (s.tmrAt ch).periodTicks = 0 then fail .tsetiv .configErr s
  else if ch = 0 then fail .tsetiv .configErr s
  else if ps = 0 then fail .tsetiv .configErr s
  else finish .tsetiv .ok 0 (s.setTmr ch { s.tmrAt ch with softCountMax := ps })

/-- R154: the millisecond clock's counters, which a TSTART of stopped channel 0 zeroes. -/
def State.zeroMillis (s : State) : State :=
  { s with ms := { s.ms with millisCounter := 0, waitCounter := 0 } }

/-- R153, R154: TSTART. -/
def execTstart (ch : Index) (s : State) : Result :=
  if ch.toNat ≥ s.cfg.nTmr ∨ (s.tmrAt ch).periodTicks = 0 then fail .tstart .configErr s
  else if (s.tmrAt ch).enabled then finish .tstart .ok 0 s
  else
    finish .tstart .ok 0 ((if ch = 0 then s.zeroMillis else s).setTmr ch { s.tmrAt ch with
      counter := 0
      softCounter := 0
      missed := 0
      IF := false
      enabled := true })

/-- R155: TSTOP. -/
def execTstop (ch : Index) (s : State) : Result :=
  if ch.toNat ≥ s.cfg.nTmr then fail .tstop .configErr s
  else finish .tstop .ok 0 (s.setTmr ch { s.tmrAt ch with enabled := false, IF := false })

/-- R156: TMISS. -/
def execTmiss (ch : Index) (s : State) : Result :=
  if ch.toNat ≥ s.cfg.nTmr then fail .tmiss .configErr s
  else finish .tmiss .ok (s.tmrAt ch).missed s

/-- R160, R163: one count of a timer channel. A stopped channel does not count. -/
def tickTimer (t : TimerChannel) : TimerChannel :=
  if t.enabled then
    if t.counter + 1 ≥ t.periodTicks then periodEvent { t with counter := 0 } else { t with counter := t.counter + 1 }
  else t

end Sys2Proof.Machine
end

