-- ==== Sys2Proof/Machine/Interrupt.lean ====
section
/-! DEFINITION. The steps the block's own agents take beside the commands: the Tick that advances every running counter
together (spec/41_countdown_timer_engine.md R160) and the services that a Take performs (spec/60_exceptions.md R312). -/

namespace Sys2Proof.Machine

/-- R160: Tick. All channels count from one tick source; the updates take effect together. -/
def tick (s : State) : State :=
  { s with
    tmr := bankMapBelow s.cfg.nTmr tickTimer s.tmr
    pwm := bankMapBelow s.cfg.nPwm tickPwm s.pwm }

/-- R312: the service that `Take(src)` performs. -/
def service (src : Source) (s : State) : State :=
  match src with
  | .tmr c => timerService c s
  | .pwmA c => pwmServiceA c s
  | .pwmB c => pwmServiceB c s
  | .pcn p => s.enterDispatch p

end Sys2Proof.Machine
end

