-- ==== Sys2Proof/Machine/Status.lean ====
section
/-! DEFINITION. The commands that belong to no component, NOP and RDERR, and the handling of illegal commands
(spec/45_status_and_control.md R273, R276, R277). -/

namespace Sys2Proof.Machine

/-- R273: NOP. -/
def execNop (s : State) : Result := finish .nop .ok 0 s

/-- R276: RDERR reads the last-error flag and clears it. -/
def execRderr (s : State) : Result := finish .rderr .ok s.lastError.code { s with lastError := .ok }

/-- R277: an illegal command completes with status ILLEGAL and value 0 and changes nothing else. -/
def execIllegal (s : State) : Result := .next (s.complete .illegalCmd .illegal 0)

end Sys2Proof.Machine
end

