-- ==== Sys2Proof/Machine/Dispatch.lean ====
section
/-! DEFINITION. The meaning of every command, one arm per row of spec/30_encoding.md R103. -/

namespace Sys2Proof.Machine

def exec (i : Instr) (s : State) : Host.Outcome State Fault Refusal :=
  match i with
  | .nop => Sys2Proof.Machine.execNop s
  | .setfreq sel => Sys2Proof.Machine.execSetfreq sel s
  | .getfreq => Sys2Proof.Machine.execGetfreq s
  | .getrate unit => Sys2Proof.Machine.execGetrate unit s
  | .tcfg ch prio unit handler iv ps => Sys2Proof.Machine.execTcfg ch prio unit handler iv ps s
  | .tstart ch => Sys2Proof.Machine.execTstart ch s
  | .tstop ch => Sys2Proof.Machine.execTstop ch s
  | .tsetiv ch ps => Sys2Proof.Machine.execTsetiv ch ps s
  | .tmiss ch => Sys2Proof.Machine.execTmiss ch s
  | .millis => Sys2Proof.Machine.execMillis s
  | .wait d => Sys2Proof.Machine.execWait d s
  | .pcfg ch port prio unit per mask => Sys2Proof.Machine.execPcfg ch port prio unit per mask s
  | .pduty ch duty => Sys2Proof.Machine.execPduty ch duty s
  | .pstart ch => Sys2Proof.Machine.execPstart ch s
  | .pstop ch => Sys2Proof.Machine.execPstop ch s
  | .pmiss ch => Sys2Proof.Machine.execPmiss ch s
  | .bind port pin edge handler => Sys2Proof.Machine.execBind port pin edge handler s
  | .spur port => Sys2Proof.Machine.execSpur port s
  | .rderr => Sys2Proof.Machine.execRderr s

end Sys2Proof.Machine
end

