-- ==== Sys2Proof/Machine/Issue.lean ====
section
/-! DEFINITION. How the steps of spec/00_scope.md R13 are chosen, enabled and run: the choices of the host's parties
(spec/60_exceptions.md R335) are read from the state, Issue decodes a command (spec/45_status_and_control.md R270), and
each step runs only where its own rule enables it. -/

namespace Sys2Proof.Machine

/-- The next choice of the host's parties, and the state with it taken: the nearest choice the state holds, else the
next value of the free environment (assumption 3). -/
def State.nextChoice (s : State) : Event × State :=
  match s.inbox with
  | e :: rest => (e, { s with inbox := rest })
  | [] => (Config.environment s.choiceIndex, { s with choiceIndex := s.choiceIndex + 1 })

/-- The enabling condition of each step, beside `fault = none` (R13 and the rule of each step). -/
def State.enabled (s : State) : Event → Bool
  | .issue _ _ _ => s.codeOnTop
  | .tick => true
  | .take src => s.takeable src
  | .dispatchStep => match s.ctx with
    | .dispatch _ _ _ :: _ => true
    | _ => false
  | .ret => s.canReturn
  | .spin => s.spinning.isSome
  | .pinEdge p i _ => decide (p.toNat < s.cfg.nPort ∧ i.toNat < s.cfg.nPin)
  | .spuriousFlag p i => decide (p.toNat < s.cfg.nPort ∧ i.toNat < s.cfg.nPin)

/-- R270: Issue runs the rule of the decoded command, or completes an illegal one (R277). -/
def issue (c : Command) (s : State) : Result :=
  match decode c with
  | .ok i => exec i s
  | _ => execIllegal s

/-- The effect of an enabled step (R13). -/
def perform (e : Event) (s : State) : Result :=
  match e with
  | .issue w0 w1 w2 => issue ⟨w0, w1, w2⟩ s
  | .tick => .next (tick s)
  | .take src => .next (service src s)
  | .dispatchStep => .next (dispatchStep s)
  | .ret => .next s.returnFromCallback
  | .spin => .next (spin (s.spinning.getD 0) s)
  | .pinEdge p i dir => .next (pinEdge p i dir s)
  | .spuriousFlag p i => .next (spuriousFlag p i s)

/-- A choice that its rule does not enable is no step: it is passed over and the block is unchanged (assumption 4). -/
def runEvent (e : Event) (s : State) : Result :=
  if s.enabled e then perform e s else .next s

/-- One step: the configuration must be one the spec gives a meaning to (R9); once a model fault is set no step is
enabled (R304); otherwise the next choice runs. -/
def advance (s : State) : Result :=
  if s.cfg.wellFormed then
    match s.fault with
    | some r => .fault r
    | none => runEvent s.nextChoice.1 s.nextChoice.2
  else .refused .badConfiguration

/-- The command of the low `nbits` bits of `w`, offered as the next choice. -/
def State.offerCommand (s : State) (nbits w : Nat) : State :=
  let c := Command.ofNat (w % 2 ^ nbits)
  { s with inbox := .issue c.w0 c.w1 c.w2 :: s.inbox }

end Sys2Proof.Machine
end

