-- ==== Sys2Proof/Machine/Step.lean ====
section
/-! DEFINITION. One step of the block, and placing a command where the next step reads it. The block has no program
memory and fetches nothing (spec/20_memory.md R90): a command reaches it as a choice of the top context's program
(spec/45_status_and_control.md R270), so `withFetchWord` offers the command as the very next choice (assumption 5). -/

namespace Sys2Proof.Machine

/-- One step of R13. -/
def step (s : State) : Host.Outcome State Fault Refusal := advance s

/-- The command whose bits are the low `nbits` bits of `w`, every bit above them zero, offered as the next choice. -/
def State.withFetchWord (s : State) (nbits w : Nat) : State := s.offerCommand nbits w

end Sys2Proof.Machine
end

