-- ==== Sys2Proof/Safety.lean ====
section
/-! DEFINITION. The terms that claims about the block are stated in: the invariants of its state
(spec/10_state.md R35, R39, R43, R46; spec/60_exceptions.md R321), frames, one step that takes a given choice, and runs
with their fairness and promptness (spec/70_reset_and_hazards.md R361, R362). -/

namespace Sys2Proof.Machine

/-! ### Invariants -/

/-- R35 (a)–(d), and the CNT_W width of the period register (R34). -/
def TimerChannel.Sound (cfg : Config) (t : TimerChannel) : Prop :=
  (t.periodTicks ≥ 1 → t.counter < t.periodTicks) ∧ (t.periodTicks = 0 → t.counter = 0) ∧
  (t.periodTicks ≥ 1 → t.softCountMax ≠ 0) ∧
  (t.enabled = true → t.periodTicks ≥ 1) ∧
  (t.enabled = false → t.IF = false) ∧
  t.periodTicks ≤ maxCount cfg

/-- R39 (a)–(f). -/
def PwmChannel.Sound (cfg : Config) (w : PwmChannel) : Prop :=
  w.dutyTicks ≤ w.periodTicks ∧
  (w.pinMask = 0 ∨ popcount w.pinMask = 1) ∧
  (w.pinMask ≠ 0 → cfg.pwmMin ≤ w.periodTicks ∧ w.periodTicks ≤ cfg.pwmMax) ∧
  (w.periodTicks ≥ 1 → w.counter < w.periodTicks) ∧
  (w.enabled = true → w.pinMask ≠ 0) ∧
  (w.enabled = false → w.IFA = false ∧ w.IFB = false)

/-- What keeps `PwmChannel.Sound`, and the widths of R38: the duty fraction is at most 65536 (Q16, D23), the compare
value is its conversion (R211), a configured channel drives an existing pin (R200), and an unconfigured one has no
period. -/
def PwmChannel.Consistent (cfg : Config) (w : PwmChannel) : Prop :=
  w.Sound cfg ∧
  w.dutyFrac.toNat ≤ 65536 ∧
  w.dutyTicks = dutyTicksOf w.dutyFrac w.periodTicks ∧
  (w.pinMask ≠ 0 → w.port.toNat < cfg.nPort ∧ maskIndex w.pinMask < cfg.nPin) ∧
  (w.pinMask = 0 → w.periodTicks = 0 ∧ w.counter = 0)

/-- R35, of every timer channel. -/
def State.TimersSound (s : State) : Prop :=
  ∀ c : Index, c.toNat < s.cfg.nTmr → (s.tmrAt c).Sound s.cfg

/-- R39, of every PWM channel. -/
def State.PwmsSound (s : State) : Prop :=
  ∀ c : Index, c.toNat < s.cfg.nPwm → (s.pwmAt c).Sound s.cfg

/-- R39 and R38, of every PWM channel. -/
def State.PwmsConsistent (s : State) : Prop :=
  ∀ c : Index, c.toNat < s.cfg.nPwm → (s.pwmAt c).Consistent s.cfg

/-- R43: no pin is both bound and claimed by a PWM channel, and no two PWM channels claim the same pin. -/
def State.PinsExclusive (s : State) : Prop :=
  (∀ c p i : Index, c.toNat < s.cfg.nPwm → (s.pwmAt c).claims p i.toNat = true → (s.pinAt p i).edge = .none) ∧
  (∀ c c' p i : Index, c.toNat < s.cfg.nPwm → c'.toNat < s.cfg.nPwm →
    (s.pwmAt c).claims p i.toNat = true → (s.pwmAt c').claims p i.toNat = true → c = c')

/-- R46, R321: the stack has the foreground at its bottom and nowhere else, a pin callback stands on the dispatch that
invoked it for an existing pin and at its level, and every other entry's level is strictly above the entry beneath it. -/
def StackSound (cfg : Config) : List Context → Prop
  | [] => False
  | [.code .fg l _] => l = 0
  | .code .fg _ _ :: _ :: _ => False
  | .code (.timerCB _) l _ :: rest => (levelOf rest).toNat < l.toNat ∧ StackSound cfg rest
  | .code (.pinCB p j) l _ :: .dispatch p' l' k :: rest =>
      p = p' ∧ l = l' ∧ k = j.toNat ∧ j.toNat < cfg.nPin ∧ StackSound cfg (.dispatch p' l' k :: rest)
  | .code (.pinCB _ _) _ _ :: _ => False
  | .dispatch p l k :: rest =>
      (levelOf rest).toNat < l.toNat ∧ l = bankGet cfg.portPrio p ∧ p.toNat < cfg.nPort ∧ k ≤ cfg.nPin ∧
        StackSound cfg rest

/-- R33, R132, R151: the selected frequency is in the table, a configured channel implies a selected frequency, and the
millisecond clock is a 1 ms timer with postscale 1. -/
def State.FrequencySound (s : State) : Prop :=
  (∀ f, s.freqSel = some f → f.toNat < s.cfg.nFreq) ∧
  (s.freqSel = none → (∀ c : Index, c.toNat < s.cfg.nTmr → (s.tmrAt c).periodTicks = 0) ∧
    ∀ c : Index, c.toNat < s.cfg.nPwm → (s.pwmAt c).pinMask = 0) ∧
  (∀ f, s.freqSel = some f → (s.tmrAt 0).periodTicks ≥ 1 →
    (s.tmrAt 0).periodTicks = (rate s.cfg f .ms).toNat ∧ (s.tmrAt 0).softCountMax = 1)

/-- The invariant of the block's state, in every configuration the spec admits. -/
structure State.Inv (s : State) : Prop where
  config : s.cfg.wellFormed = true
  timers : s.TimersSound
  pwms : s.PwmsConsistent
  pins : s.PinsExclusive
  stack : StackSound s.cfg s.ctx
  frequency : s.FrequencySound

/-! ### Frames -/

/-- Every timer channel but `c` is the same. -/
def State.TimersAgreeExcept (s t : State) (c : Index) : Prop := ∀ c', c' ≠ c → t.tmrAt c' = s.tmrAt c'

/-- Every PWM channel but `c` is the same. -/
def State.PwmsAgreeExcept (s t : State) (c : Index) : Prop := ∀ c', c' ≠ c → t.pwmAt c' = s.pwmAt c'

/-- Every pin but (p, i) is the same. -/
def State.PinsAgreeExcept (s t : State) (p i : Index) : Prop :=
  ∀ p' i', ¬(p' = p ∧ i' = i) → t.pinAt p' i' = s.pinAt p' i'

/-- Every port but `p` is the same. -/
def State.PortsAgreeExcept (s t : State) (p : Index) : Prop := ∀ p', p' ≠ p → t.portAt p' = s.portAt p'

/-! ### Results -/

/-- R272: completion of a command of row `o` with status OK and a value: the result is logged, nothing else. -/
def State.okResult (s : State) (o : Opcode) (v : Word) : State :=
  { s with events := s.events ++ [.result (.op o) .ok v] }

/-- R272, R300: completion with a non-OK status and value 0: the status is recorded and the result logged. -/
def State.errResult (s : State) (o : Opcode) (st : Status) : State :=
  { s with lastError := st, events := s.events ++ [.result (.op o) st 0] }

/-- R303: a model fault in place of completion. -/
def State.faulted (s : State) (r : Fault) : State := { s with fault := some r }

/-- R14: some existing channel is configured. -/
def State.Configured (s : State) : Prop :=
  (∃ c : Index, c.toNat < s.cfg.nTmr ∧ (s.tmrAt c).periodTicks ≥ 1) ∨
  (∃ c : Index, c.toNat < s.cfg.nPwm ∧ (s.pwmAt c).pinMask ≠ 0)

/-- R11: `sat_32(v + 1)` of a 32-bit counter. -/
def saturatingSucc (v : BitVec 32) : BitVec 32 := if v.toNat + 1 ≤ 2 ^ 32 - 1 then v + 1 else v

/-! ### Steps and runs -/

/-- The step that takes the choice `e`. -/
def stepOn (e : Event) (s : State) : Result := step { s with inbox := e :: s.inbox }

/-- The state can take steps: a configuration the spec admits (R9), and no model fault (R304). -/
def State.Live (s : State) : Prop := s.cfg.wellFormed = true ∧ s.fault = none

/-- R361: an infinite run from reset, for some configuration and some choices of the host's parties. -/
def IsRun (r : Nat → State) : Prop :=
  (∃ cfg inbox n, cfg.wellFormed = true ∧
    r 0 = { State.resetWith cfg with inbox := inbox, choiceIndex := n }) ∧
  ∀ n, step (r n) = .next (r (n + 1))

/-- The choice that step `n` of a run reads. -/
def choiceAt (r : Nat → State) (n : Nat) : Event := (r n).nextChoice.1

/-- Step `n` of a run is the step `e` of R13: it is chosen and its rule enables it. -/
def TakenAt (r : Nat → State) (n : Nat) (e : Event) : Prop := choiceAt r n = e ∧ (r n).enabled e = true

/-- A condition that holds infinitely often along a run. -/
def InfinitelyOften (p : Nat → Prop) : Prop := ∀ n, ∃ m, n ≤ m ∧ p m

/-- A Spin step that completes a WAIT is enabled (R192). -/
def State.spinCompletes (s : State) : Prop := ∃ d, s.spinning = some d ∧ d.toNat ≤ s.ms.waitCounter.toNat

/-- R192: a Spin that completes a WAIT is enabled, and the WAIT is that of the context at this depth of the stack. A
spinning context and all entries beneath it stay until its completing Spin, so at one time the depth names one WAIT. -/
def State.waitCompletesAt (s : State) (depth : Nat) : Prop := s.spinCompletes ∧ s.ctx.length = depth

/-- R361: fairness, the only progress assumption, of an infinite run. DESIGN CHOICE (assumption 18): "such a Spin is
taken" in (d) is read of each WAIT by itself, so none may starve because another one completed; and it is read as R361
words it, of a Spin enabled in infinitely many states, where R193(g) calls Spin weakly fair. -/
structure Fair (r : Nat → State) : Prop where
  ticks : InfinitelyOften fun n => TakenAt r n .tick
  takes : ∀ src, (InfinitelyOften fun n => (r n).enabled (.take src) = true) →
    InfinitelyOften fun n => TakenAt r n (.take src)
  dispatches : (InfinitelyOften fun n => (r n).enabled .dispatchStep = true) →
    InfinitelyOften fun n => TakenAt r n .dispatchStep
  spins : ∀ depth, (InfinitelyOften fun n => (r n).waitCompletesAt depth) →
    InfinitelyOften fun n => TakenAt r n .spin ∧ (r n).waitCompletesAt depth

/-- R362: every Tick occurs where no source is eligible and the foreground is on top. -/
def Prompt (r : Nat → State) : Prop :=
  ∀ n, TakenAt r n .tick →
    (∀ src, (r n).eligible src = false) ∧ ∃ l w rest, (r n).ctx = .code .fg l w :: rest

/-- R304: a run of `n` steps from `s` ends successfully in `t`: no step stopped, and `t` holds no model fault, for a faulted
state is never a successful end of a run, though the step that raised the fault answered it as a next state (R303). -/
def SucceedsIn (n : Nat) (s t : State) : Prop := Sys2Proof.core.run n s = .next t ∧ t.Live

/-- A safe run of `n` steps: it ends successfully, so no step of it, the last among them, stopped or raised a model fault.
This is the premise "no fault" that R304 asks of a claim about the block. -/
def SafeFor (n : Nat) (s : State) : Prop := ∃ t, SucceedsIn n s t

/-- No event of PWM channel `c` is pending: R218's premise at every Tick. -/
def State.pwmQuiet (s : State) (c : Index) : Prop := (s.pwmAt c).IFA = false ∧ (s.pwmAt c).IFB = false

/-- The choice is a command that changes a running PWM channel `c`: PDUTY or PSTOP of it. A PCFG of a running channel is a
model fault, and a PSTART of it changes nothing. -/
def changesRunningPwm (e : Event) (c : Index) : Prop :=
  ∃ w0 w1 w2, e = .issue w0 w1 w2 ∧
    ((∃ duty, decode ⟨w0, w1, w2⟩ = .ok (.pduty c duty)) ∨ decode ⟨w0, w1, w2⟩ = .ok (.pstop c))

/-- R218: channel `c` runs with period `period` and compare value `duty`. With no event of it pending, its pin is High
exactly while the counter is below the compare value. Between an event and its service the other event is not pending and
the counter stands where the event was raised: at 0 for A, at the compare value, within the period, for B. -/
def WaveformHolds (c : Index) (period duty : Nat) (s : State) : Prop :=
  let w := s.pwmAt c
  w.enabled = true ∧ w.periodTicks = period ∧ w.dutyTicks = duty ∧ w.counter < period ∧
  (s.pwmQuiet c → (s.pinAt w.port w.pinIndex).outLevel = some (if w.counter < duty then .high else .low)) ∧
  (w.IFA = true → w.IFB = false ∧ w.counter = 0) ∧
  (w.IFB = true → w.counter = duty)

end Sys2Proof.Machine
end

