-- ==== Sys2Proof/Certificates/Slice0/Obligations.lean ====
section
/-! DEFINITION. The statements for the provers, in the terms of Sys2Proof/Safety.lean: the encoding, the machine's steps,
every command, the autonomous steps and services, and the invariants. -/

open Sys2Proof Sys2Proof.Machine

/-! ### Encoding -/

/-- R109: decoding the encoding of a term gives back the term, as words and as little-endian bytes (R81). -/
def Obligations.DecodeOfEncodeIsIdentity : Prop :=
  ∀ (i : Instr) (rest : List Byte),
    decode (encode i) = .ok i ∧ decodeBytes ((encode i).bytes ++ rest) = (.ok i, rest)

/-- R101, R103, R105: decoding drops no bit of W0, and of W1 and W2 exactly those of an ignored word. -/
def Obligations.EncodeOfDecodeKeepsEveryUsedBit : Prop :=
  ∀ (c : Command) (i : Instr), decode c = .ok i →
    (encode i).w0 = c.w0 ∧
    (encode i).w1 = (if i.opcode.usesW1 then c.w1 else 0) ∧
    (encode i).w2 = (if i.opcode.usesW2 then c.w2 else 0)

/-- R105: each command matches exactly its row's pattern, no two rows overlap, and a W0 that matches no row is illegal
and treated by R104. -/
def Obligations.DecodeAgreesWithPatternTable : Prop :=
  (∀ (c : Command) (o : Opcode), (∃ i, decode c = .ok i ∧ i.opcode = o) ↔ c.w0 &&& o.mask = o.pattern) ∧
  (∀ (o o' : Opcode) (w0 : Word), w0 &&& o.mask = o.pattern → w0 &&& o'.mask = o'.pattern → o = o') ∧
  (∀ (c : Command) (s : State), (∀ o : Opcode, c.w0 &&& o.mask ≠ o.pattern) →
    issue c s =
      .next { s with lastError := .illegal, events := s.events ++ [.result .illegalCmd .illegal 0] })

/-- Words of spec/95_test_vectors.md decode to the commands they are listed for, one or more of every family. -/
def Obligations.ListedWordsDecode : Prop :=
  decode ⟨0x00200003, 0, 0⟩ = .ok (.getrate .ms) ∧
  decode ⟨0x01280048, 1, 10⟩ = .ok (.tcfg 1 2 .ms 1 1 10) ∧
  decode ⟨0x020C0048, 1, 1⟩ = .ok (.tcfg 1 3 .us 2 1 1) ∧
  decode ⟨0x000000C9, 0, 0⟩ = .ok (.tstart 3) ∧
  decode ⟨0x00000011, 3, 0⟩ = .ok (.wait 3) ∧
  decode ⟨0x00140818, 10, 1⟩ = .ok (.pcfg 0 2 5 .us 10 1) ∧
  decode ⟨0x00000059, 32768, 0⟩ = .ok (.pduty 1 32768) ∧
  decode ⟨0x0740C020, 0, 0⟩ = .ok (.bind 0 3 1 7) ∧
  decode ⟨0x01C00020, 0, 0⟩ = .ok (.bind 0 0 3 1) ∧
  decode ⟨0x00000028, 0, 0⟩ = .ok .rderr ∧
  decode ⟨0x00000004, 0, 0⟩ = .reservedOpcode 4 ∧
  decode ⟨0x00000409, 0, 0⟩ = .strayField .tstart ∧
  decode ⟨0x00200002, 0, 0⟩ = .strayField .getfreq

/-- R104, R277: a reserved OP is illegal, and a command that decodes to nothing returns ILLEGAL with value 0 and changes
nothing but `lastError` and the log; NOP is W0 = 0 and nothing else. -/
def Obligations.IllegalCommandChangesOnlyLastError : Prop :=
  (∀ c : Command, (c.w0.toNat % 64 ∈ ([0x04, 0x05, 0x06, 0x07, 0x0D, 0x0E, 0x0F, 0x12, 0x13, 0x14, 0x15, 0x16, 0x17,
      0x1D, 0x1E, 0x1F, 0x22, 0x23, 0x24, 0x25, 0x26, 0x27] : List Nat) ∨ 0x29 ≤ c.w0.toNat % 64) →
    decode c = .reservedOpcode (c.w0.extractLsb' 0 6)) ∧
  (∀ (c : Command) (s : State), (∀ i, decode c ≠ .ok i) →
    issue c s =
      .next { s with lastError := .illegal, events := s.events ++ [.result .illegalCmd .illegal 0] }) ∧
  (∀ c : Command, decode c = .ok .nop ↔ c.w0 = 0)

/-! ### Steps of the machine -/

/-- R270, R277: where the next choice offers words and the top is a code context that is not spinning, the step is the
decoded command's meaning, with the choice taken from the inbox, and words that decode to no command complete with ILLEGAL
and value 0; with any other top, a spinning context or a dispatch among them, Issue is not enabled. -/
def Obligations.StepRunsDecodedCommand : Prop :=
  (∀ (s : State) (w0 w1 w2 : Word) (rest : List Event) (k : ContextKind) (l : Level) (below : List Context),
    s.Live → s.inbox = .issue w0 w1 w2 :: rest → s.ctx = .code k l none :: below →
    (∀ i, decode ⟨w0, w1, w2⟩ = .ok i → step s = exec i { s with inbox := rest }) ∧
    ((∀ i, decode ⟨w0, w1, w2⟩ ≠ .ok i) →
      step s = .next { s with
        inbox := rest, lastError := .illegal, events := s.events ++ [.result .illegalCmd .illegal 0] })) ∧
  (∀ (s : State) (w0 w1 w2 : Word),
    s.enabled (.issue w0 w1 w2) = true ↔ ∃ k l below, s.ctx = .code k l none :: below) ∧
  ∀ (s : State) (w0 w1 w2 : Word) (p : Index) (l : Level) (k : Nat) (below : List Context),
    s.ctx = .dispatch p l k :: below → s.enabled (.issue w0 w1 w2) = false

/-- R304: once a model fault is set no step is enabled, whatever is chosen; the state after reset has no fault; and a
faulted state is never a successful end of a run: a run that reaches one, be it by its last step, is not safe. -/
def Obligations.FaultedMachineTakesNoStep : Prop :=
  (∀ (s : State) (r : Fault), s.cfg.wellFormed = true → s.fault = some r →
    step s = .fault r ∧ ∀ (e : Event) (t : State), stepOn e s ≠ .next t) ∧
  (∀ cfg : Config, (State.resetWith cfg).fault = none) ∧
  ∀ (m n : Nat) (s t : State), m ≤ n → Sys2Proof.core.run m s = .next t → t.fault ≠ none → ¬SafeFor n s

/-- R9: a configuration whose frequency table or PWM bounds break the rule is refused. -/
def Obligations.BadConfigurationIsRefused : Prop :=
  ∀ s : State,
    (s.cfg.rates.length ≠ s.cfg.nFreq ∨ (∃ r ∈ s.cfg.rates, r.us = 0 ∨ r.ms = 0) ∨
      s.cfg.pwmMin > s.cfg.pwmMax ∨ s.cfg.pwmMax > 2 ^ s.cfg.cntW - 1) →
    step s = .refused .badConfiguration

/-- The model's own guarantee: in every configuration the spec admits and without a model fault, no step stops. -/
def Obligations.LiveMachineAlwaysSteps : Prop :=
  ∀ s : State, s.Live → ∃ t, step s = .next t

/-- The model's choice (assumption 4): a choice that no rule enables is passed over and changes nothing. -/
def Obligations.DisabledChoiceChangesNothing : Prop :=
  ∀ (e : Event) (s : State), s.Live → s.enabled e = false → stepOn e s = .next s

/-- R340: the state after reset, for every value of the parameters; no step clears a model fault. -/
def Obligations.ResetLeavesEveryFieldAsListed : Prop :=
  (∀ cfg : Config,
    let s := State.resetWith cfg
    s.freqSel = none ∧
    (∀ c, s.tmrAt c = { periodTicks := 0, counter := 0, softCounter := 0, softCountMax := 0, callback := 0,
                        priority := 0, enabled := false, IF := false, missed := 0 }) ∧
    s.ms = { millisCounter := 0, waitCounter := 0, isWaiting := false } ∧
    (∀ c, s.pwmAt c = { port := 0, pinMask := 0, periodTicks := 0, dutyFrac := 0, dutyTicks := 0, counter := 0,
                        priority := 0, enabled := false, IFA := false, IFB := false, missed := 0 }) ∧
    (∀ p i, s.pinAt p i = { edge := .none, handler := 0, changeFlag := false, outLevel := none }) ∧
    (∀ p, s.portAt p = { flag := false, IE := false, spurious := 0 }) ∧
    s.lastError = .ok ∧ s.fault = none ∧ s.ctx = [.code .fg 0 none] ∧ s.events = [] ∧
    s.currentLevel = 0 ∧ (∀ src, s.unmasked src = false ∧ s.pending src = false)) ∧
  (∀ s t : State, s.fault ≠ none → step s ≠ .next t)

/-- R341: before the first command Tick and PinEdge change nothing, SpuriousFlag sets a pin's flag and its port's, and
no source may then be taken. That choosing such a Take, or a PinEdge of a pin that does not exist, leaves the state as it
is, is the model's choice (assumption 4): a choice no rule enables is passed over. -/
def Obligations.StepsBeforeFirstCommand : Prop :=
  ∀ cfg : Config, cfg.wellFormed = true →
    let s := State.resetWith cfg
    stepOn .tick s = .next s ∧
    (∀ p i dir, stepOn (.pinEdge p i dir) s = .next s) ∧
    (∀ p i : Index, p.toNat < cfg.nPort → i.toNat < cfg.nPin →
      ∃ t, stepOn (.spuriousFlag p i) s = .next t ∧ t = { s with pin := t.pin, port := t.port } ∧
        (t.pinAt p i).changeFlag = true ∧ (t.portAt p).flag = true ∧ (t.portAt p).IE = false ∧
        ∀ src, t.enabled (.take src) = false ∧ stepOn (.take src) t = .next t)

/-! ### Commands -/

/-- R273: NOP is W0 = 0 and nothing else, and does nothing but complete. -/
def Obligations.NopOnlyCompletes : Prop :=
  (∀ c : Command, decode c = .ok .nop ↔ c.w0 = 0) ∧
  ∀ s : State, exec .nop s = .next (s.okResult .nop 0)

/-- R132: SETFREQ. -/
def Obligations.SetfreqSelectsOrFaults : Prop :=
  (∀ w1 w2 : Word, decode ⟨0x01, w1, w2⟩ = .ok (.setfreq w1)) ∧
  ∀ (s : State) (sel : Word),
    (sel.toNat ≥ s.cfg.nFreq → exec (.setfreq sel) s = .next (s.errResult .setfreq .configErr)) ∧
    (sel.toNat < s.cfg.nFreq → s.freqSel = some sel → exec (.setfreq sel) s = .next (s.okResult .setfreq 0)) ∧
    (sel.toNat < s.cfg.nFreq → s.freqSel ≠ some sel → s.Configured →
      exec (.setfreq sel) s = .next (s.faulted .freqChangeAfterConfigure)) ∧
    (sel.toNat < s.cfg.nFreq → s.freqSel ≠ some sel → ¬s.Configured →
      exec (.setfreq sel) s = .next ({ s with freqSel := some sel }.okResult .setfreq 0))

/-- R133: GETFREQ. -/
def Obligations.GetfreqReadsSelection : Prop :=
  (∀ w1 w2 : Word, decode ⟨0x02, w1, w2⟩ = .ok .getfreq) ∧
  ∀ s : State,
    (∀ f, s.freqSel = some f → exec .getfreq s = .next (s.okResult .getfreq f)) ∧
    (s.freqSel = none → exec .getfreq s = .next (s.errResult .getfreq .configErr))

/-- R134, R130: GETRATE reads the selected table entry, which is at least 1 in every configuration R9 admits. -/
def Obligations.GetrateReadsTableEntry : Prop :=
  (∀ w1 w2 : Word, decode ⟨0x00000003, w1, w2⟩ = .ok (.getrate .us)) ∧
  (∀ w1 w2 : Word, decode ⟨0x00200003, w1, w2⟩ = .ok (.getrate .ms)) ∧
  ∀ (s : State) (unit : TimeUnit),
    (∀ f r, s.freqSel = some f → s.cfg.rates[f.toNat]? = some r →
      exec (.getrate unit) s = .next (s.okResult .getrate (match unit with | .us => r.us | .ms => r.ms)) ∧
      (s.cfg.wellFormed = true → 1 ≤ r.us.toNat ∧ 1 ≤ r.ms.toNat)) ∧
    (s.freqSel = none → exec (.getrate unit) s = .next (s.errResult .getrate .configErr))

/-- R150, R151: TCFG, its outcomes in the order of its checks. -/
def Obligations.TcfgConfiguresStoppedChannel : Prop :=
  (∀ (ch : Index) (prio : Level) (unit : TimeUnit) (h : HandlerId) (w1 w2 : Word),
    decode ⟨h ++ 0#2 ++ unit.toBit ++ prio ++ 0#8 ++ ch ++ 0x08#6, w1, w2⟩ = .ok (.tcfg ch prio unit h w1 w2)) ∧
  ∀ (s : State) (ch : Index) (prio : Level) (unit : TimeUnit) (h : HandlerId) (iv ps : Word),
    (ch.toNat ≥ s.cfg.nTmr →
      exec (.tcfg ch prio unit h iv ps) s = .next (s.errResult .tcfg .configErr)) ∧
    (ch.toNat < s.cfg.nTmr → s.freqSel = none →
      exec (.tcfg ch prio unit h iv ps) s = .next (s.faulted .freqUnset)) ∧
    (ch.toNat < s.cfg.nTmr → s.freqSel ≠ none → (s.tmrAt ch).enabled = true →
      exec (.tcfg ch prio unit h iv ps) s = .next (s.faulted .reconfigureWhileRunning)) ∧
    (∀ f r, ch.toNat < s.cfg.nTmr → s.freqSel = some f → s.cfg.rates[f.toNat]? = some r →
      (s.tmrAt ch).enabled = false →
      (iv.toNat * (r.count unit).toNat = 0 ∨ iv.toNat * (r.count unit).toNat > 2 ^ s.cfg.cntW - 1 ∨ ps = 0 ∨
        (ch = 0 ∧ ¬(unit = .ms ∧ iv = 1 ∧ ps = 1))) →
      exec (.tcfg ch prio unit h iv ps) s = .next (s.errResult .tcfg .configErr)) ∧
    (∀ f r, ch.toNat < s.cfg.nTmr → s.freqSel = some f → s.cfg.rates[f.toNat]? = some r →
      (s.tmrAt ch).enabled = false →
      1 ≤ iv.toNat * (r.count unit).toNat → iv.toNat * (r.count unit).toNat ≤ 2 ^ s.cfg.cntW - 1 → ps ≠ 0 →
      (ch = 0 → unit = .ms ∧ iv = 1 ∧ ps = 1) →
      ∃ t, exec (.tcfg ch prio unit h iv ps) s = .next (t.okResult .tcfg 0) ∧ t = { s with tmr := t.tmr } ∧
        s.TimersAgreeExcept t ch ∧
        t.tmrAt ch = { s.tmrAt ch with
          periodTicks := iv.toNat * (r.count unit).toNat, softCountMax := ps, callback := h, priority := prio,
          counter := 0 })

/-- R152: TSETIV changes the postscale in place, running or not. -/
def Obligations.TsetivChangesOnlyPostscale : Prop :=
  (∀ (ch : Index) (w1 w2 : Word), decode ⟨0#22 ++ ch ++ 0x0B#6, w1, w2⟩ = .ok (.tsetiv ch w1)) ∧
  ∀ (s : State) (ch : Index) (ps : Word),
    (ch.toNat ≥ s.cfg.nTmr ∨ (s.tmrAt ch).periodTicks = 0 ∨ ch = 0 ∨ ps = 0 →
      exec (.tsetiv ch ps) s = .next (s.errResult .tsetiv .configErr)) ∧
    (ch.toNat < s.cfg.nTmr → (s.tmrAt ch).periodTicks ≠ 0 → ch ≠ 0 → ps ≠ 0 →
      ∃ t, exec (.tsetiv ch ps) s = .next (t.okResult .tsetiv 0) ∧ t = { s with tmr := t.tmr } ∧
        s.TimersAgreeExcept t ch ∧ t.tmrAt ch = { s.tmrAt ch with softCountMax := ps })

/-- R153, R154: TSTART zeroes the counters of a stopped, configured channel and changes nothing on a running one. -/
def Obligations.TstartArmsStoppedChannel : Prop :=
  (∀ (ch : Index) (w1 w2 : Word), decode ⟨0#22 ++ ch ++ 0x09#6, w1, w2⟩ = .ok (.tstart ch)) ∧
  ∀ (s : State) (ch : Index),
    (ch.toNat ≥ s.cfg.nTmr ∨ (s.tmrAt ch).periodTicks = 0 →
      exec (.tstart ch) s = .next (s.errResult .tstart .configErr)) ∧
    (ch.toNat < s.cfg.nTmr → (s.tmrAt ch).periodTicks ≠ 0 → (s.tmrAt ch).enabled = true →
      exec (.tstart ch) s = .next (s.okResult .tstart 0)) ∧
    (ch.toNat < s.cfg.nTmr → (s.tmrAt ch).periodTicks ≠ 0 → (s.tmrAt ch).enabled = false →
      ∃ t, exec (.tstart ch) s = .next (t.okResult .tstart 0) ∧ t = { s with tmr := t.tmr, ms := t.ms } ∧
        s.TimersAgreeExcept t ch ∧
        t.tmrAt ch = { s.tmrAt ch with counter := 0, softCounter := 0, missed := 0, IF := false, enabled := true } ∧
        t.ms = if ch = 0 then { s.ms with millisCounter := 0, waitCounter := 0 } else s.ms)

/-- R155: TSTOP masks the channel, discards its pending event and stops its counting; its service cannot begin. -/
def Obligations.TstopDiscardsPendingEvent : Prop :=
  (∀ (ch : Index) (w1 w2 : Word), decode ⟨0#22 ++ ch ++ 0x0A#6, w1, w2⟩ = .ok (.tstop ch)) ∧
  ∀ (s : State) (ch : Index),
    (ch.toNat ≥ s.cfg.nTmr → exec (.tstop ch) s = .next (s.errResult .tstop .configErr)) ∧
    (ch.toNat < s.cfg.nTmr →
      ∃ t, exec (.tstop ch) s = .next (t.okResult .tstop 0) ∧ t = { s with tmr := t.tmr } ∧
        s.TimersAgreeExcept t ch ∧ t.tmrAt ch = { s.tmrAt ch with enabled := false, IF := false } ∧
        (t.okResult .tstop 0).takeable (.tmr ch) = false)

/-- R156: TMISS reads the missed-tick counter and clears nothing. -/
def Obligations.TmissReadsMissed : Prop :=
  (∀ (ch : Index) (w1 w2 : Word), decode ⟨0#22 ++ ch ++ 0x0C#6, w1, w2⟩ = .ok (.tmiss ch)) ∧
  ∀ (s : State) (ch : Index),
    (ch.toNat ≥ s.cfg.nTmr → exec (.tmiss ch) s = .next (s.errResult .tmiss .configErr)) ∧
    (ch.toNat < s.cfg.nTmr → exec (.tmiss ch) s = .next (s.okResult .tmiss (s.tmrAt ch).missed))

/-- R183: MILLIS reads the millisecond counter from any context, channel 0 running or not. -/
def Obligations.MillisReadsCounter : Prop :=
  (∀ w1 w2 : Word, decode ⟨0x10, w1, w2⟩ = .ok .millis) ∧
  ∀ s : State, exec .millis s = .next (s.okResult .millis s.ms.millisCounter)

/-- R190: WAIT zeroes the wait counter, sets `isWaiting` and leaves its context spinning: that context then neither
issues a command nor returns, and the sources that may be taken are the same. -/
def Obligations.WaitStartsSpinning : Prop :=
  (∀ w1 w2 : Word, decode ⟨0x11, w1, w2⟩ = .ok (.wait w1)) ∧
  ∀ (s : State) (d : Word) (k : ContextKind) (l : Level) (below : List Context), s.ctx = .code k l none :: below →
    ∃ t, exec (.wait d) s = .next t ∧
      t = { s with ms := { s.ms with waitCounter := 0, isWaiting := true }, ctx := .code k l (some d) :: below } ∧
      (∀ w0 w1 w2, t.enabled (.issue w0 w1 w2) = false) ∧ t.enabled .ret = false ∧ t.enabled .spin = true ∧
      ∀ src, t.takeable src = s.takeable src

/-- R200, R201, R202: PCFG, its outcomes in the order of its checks. The pin index of a mask 2^k is k. -/
def Obligations.PcfgConfiguresStoppedChannel : Prop :=
  (∀ (ch port : Index) (prio : Level) (unit : TimeUnit) (w1 w2 : Word),
    decode ⟨0#10 ++ unit.toBit ++ prio ++ 0#4 ++ port ++ ch ++ 0x18#6, w1, w2⟩ =
      .ok (.pcfg ch port prio unit w1 w2)) ∧
  ∀ (s : State) (ch port : Index) (prio : Level) (unit : TimeUnit) (per mask : Word),
    (ch.toNat ≥ s.cfg.nPwm →
      exec (.pcfg ch port prio unit per mask) s = .next (s.errResult .pcfg .configErr)) ∧
    (ch.toNat < s.cfg.nPwm → s.freqSel = none →
      exec (.pcfg ch port prio unit per mask) s = .next (s.faulted .freqUnset)) ∧
    (ch.toNat < s.cfg.nPwm → s.freqSel ≠ none → (s.pwmAt ch).enabled = true →
      exec (.pcfg ch port prio unit per mask) s = .next (s.faulted .reconfigureWhileRunning)) ∧
    (ch.toNat < s.cfg.nPwm → s.freqSel ≠ none → (s.pwmAt ch).enabled = false →
      (¬∃ k < 32, mask = 1#32 <<< k) →
      exec (.pcfg ch port prio unit per mask) s = .next (s.faulted .pinMaskInvalid)) ∧
    (∀ k < 32, ch.toNat < s.cfg.nPwm → s.freqSel ≠ none → (s.pwmAt ch).enabled = false → mask = 1#32 <<< k →
      (port.toNat ≥ s.cfg.nPort ∨ k ≥ s.cfg.nPin) →
      exec (.pcfg ch port prio unit per mask) s = .next (s.errResult .pcfg .configErr)) ∧
    (∀ k < 32, ch.toNat < s.cfg.nPwm → s.freqSel ≠ none → (s.pwmAt ch).enabled = false → mask = 1#32 <<< k →
      port.toNat < s.cfg.nPort → k < s.cfg.nPin → s.cfg.nPin ≤ 16 →
      ((s.pinAt port (BitVec.ofNat 4 k)).edge ≠ .none ∨
        ∃ c', c' ≠ ch ∧ c'.toNat < s.cfg.nPwm ∧ (s.pwmAt c').claims port k = true) →
      exec (.pcfg ch port prio unit per mask) s = .next (s.errResult .pcfg .conflictErr)) ∧
    (∀ k < 32, ∀ f r, ch.toNat < s.cfg.nPwm → s.freqSel = some f → s.cfg.rates[f.toNat]? = some r →
      (s.pwmAt ch).enabled = false → mask = 1#32 <<< k →
      port.toNat < s.cfg.nPort → k < s.cfg.nPin → s.cfg.nPin ≤ 16 →
      (s.pinAt port (BitVec.ofNat 4 k)).edge = .none →
      (∀ c', c' ≠ ch → c'.toNat < s.cfg.nPwm → (s.pwmAt c').claims port k = false) →
      ∃ t, exec (.pcfg ch port prio unit per mask) s = .next (t.okResult .pcfg 0) ∧ t = { s with pwm := t.pwm } ∧
        s.PwmsAgreeExcept t ch ∧
        (let period := min (max (per.toNat * (r.count unit).toNat) s.cfg.pwmMin) s.cfg.pwmMax
         t.pwmAt ch = { s.pwmAt ch with
           port := port, pinMask := mask, periodTicks := period, priority := prio, counter := 0,
           dutyTicks := ((s.pwmAt ch).dutyFrac.toNat * period + 32768) / 65536 }) ∧
        (t.pwmAt ch).claims port k = true)

/-- R210: PDUTY clamps the fraction, stores it and recomputes the compare value, running or not. -/
def Obligations.PdutySetsFractionAndCompare : Prop :=
  (∀ (ch : Index) (w1 w2 : Word), decode ⟨0#22 ++ ch ++ 0x19#6, w1, w2⟩ = .ok (.pduty ch w1)) ∧
  ∀ (s : State) (ch : Index) (duty : Word),
    (ch.toNat ≥ s.cfg.nPwm → exec (.pduty ch duty) s = .next (s.errResult .pduty .configErr)) ∧
    (ch.toNat < s.cfg.nPwm →
      ∃ t, exec (.pduty ch duty) s = .next (t.okResult .pduty 0) ∧ t = { s with pwm := t.pwm } ∧
        s.PwmsAgreeExcept t ch ∧
        t.pwmAt ch = { s.pwmAt ch with dutyFrac := (t.pwmAt ch).dutyFrac, dutyTicks := (t.pwmAt ch).dutyTicks } ∧
        (t.pwmAt ch).dutyFrac.toNat = min duty.toNat 65536 ∧
        (t.pwmAt ch).dutyTicks = (min duty.toNat 65536 * (s.pwmAt ch).periodTicks + 32768) / 65536)

/-- R205: PSTART arms both events of a stopped, configured channel and drives the time-0 level. -/
def Obligations.PstartDrivesTimeZeroLevel : Prop :=
  (∀ (ch : Index) (w1 w2 : Word), decode ⟨0#22 ++ ch ++ 0x1A#6, w1, w2⟩ = .ok (.pstart ch)) ∧
  ∀ (s : State) (ch : Index),
    (ch.toNat ≥ s.cfg.nPwm ∨ (s.pwmAt ch).pinMask = 0 →
      exec (.pstart ch) s = .next (s.errResult .pstart .configErr)) ∧
    (ch.toNat < s.cfg.nPwm → (s.pwmAt ch).pinMask ≠ 0 → (s.pwmAt ch).enabled = true →
      exec (.pstart ch) s = .next (s.okResult .pstart 0)) ∧
    (ch.toNat < s.cfg.nPwm → (s.pwmAt ch).pinMask ≠ 0 → (s.pwmAt ch).enabled = false →
      ∃ t, exec (.pstart ch) s = .next (t.okResult .pstart 0) ∧
        (let p := (s.pwmAt ch).port
         let i := BitVec.ofNat 4 (maskIndex (s.pwmAt ch).pinMask)
         let level := if (s.pwmAt ch).dutyTicks > 0 then PinLevel.high else PinLevel.low
         t = { s with pwm := t.pwm, pin := t.pin, events := s.events ++ [.drive p i level] } ∧
         s.PwmsAgreeExcept t ch ∧ s.PinsAgreeExcept t p i ∧
         t.pwmAt ch = { s.pwmAt ch with counter := 0, IFA := false, IFB := false, missed := 0, enabled := true } ∧
         t.pinAt p i = { s.pinAt p i with outLevel := some level }))

/-- R206: PSTOP masks both events and stops the counter; the pin keeps the level it had and its claim. -/
def Obligations.PstopKeepsPinLevel : Prop :=
  (∀ (ch : Index) (w1 w2 : Word), decode ⟨0#22 ++ ch ++ 0x1B#6, w1, w2⟩ = .ok (.pstop ch)) ∧
  ∀ (s : State) (ch : Index),
    (ch.toNat ≥ s.cfg.nPwm → exec (.pstop ch) s = .next (s.errResult .pstop .configErr)) ∧
    (ch.toNat < s.cfg.nPwm →
      ∃ t, exec (.pstop ch) s = .next (t.okResult .pstop 0) ∧ t = { s with pwm := t.pwm } ∧
        s.PwmsAgreeExcept t ch ∧ t.pwmAt ch = { s.pwmAt ch with enabled := false, IFA := false, IFB := false } ∧
        (t.okResult .pstop 0).takeable (.pwmA ch) = false ∧ (t.okResult .pstop 0).takeable (.pwmB ch) = false)

/-- R207: PMISS reads the missed-event counter and clears nothing. -/
def Obligations.PmissReadsMissed : Prop :=
  (∀ (ch : Index) (w1 w2 : Word), decode ⟨0#22 ++ ch ++ 0x1C#6, w1, w2⟩ = .ok (.pmiss ch)) ∧
  ∀ (s : State) (ch : Index),
    (ch.toNat ≥ s.cfg.nPwm → exec (.pmiss ch) s = .next (s.errResult .pmiss .configErr)) ∧
    (ch.toNat < s.cfg.nPwm → exec (.pmiss ch) s = .next (s.okResult .pmiss (s.pwmAt ch).missed))

/-- R240, R241: BIND replaces the pin's binding, clears its flag and the port's, and enables the port's interrupt; other
pins and ports are untouched. -/
def Obligations.BindReplacesBinding : Prop :=
  (∀ (port pin : Index) (edge : BitVec 2) (h : HandlerId) (w1 w2 : Word),
    decode ⟨h ++ edge ++ 0#4 ++ pin ++ port ++ 0#4 ++ 0x20#6, w1, w2⟩ = .ok (.bind port pin edge h)) ∧
  ∀ (s : State) (port pin : Index) (edge : BitVec 2) (h : HandlerId),
    (port.toNat ≥ s.cfg.nPort ∨ pin.toNat ≥ s.cfg.nPin ∨ edge = 0 →
      exec (.bind port pin edge h) s = .next (s.errResult .bind .configErr)) ∧
    (port.toNat < s.cfg.nPort → pin.toNat < s.cfg.nPin → edge ≠ 0 →
      (∃ c : Index, c.toNat < s.cfg.nPwm ∧ (s.pwmAt c).claims port pin.toNat = true) →
      exec (.bind port pin edge h) s = .next (s.errResult .bind .conflictErr)) ∧
    (port.toNat < s.cfg.nPort → pin.toNat < s.cfg.nPin → edge ≠ 0 →
      (∀ c : Index, c.toNat < s.cfg.nPwm → (s.pwmAt c).claims port pin.toNat = false) →
      ∃ t, exec (.bind port pin edge h) s = .next (t.okResult .bind 0) ∧ t = { s with pin := t.pin, port := t.port } ∧
        s.PinsAgreeExcept t port pin ∧ s.PortsAgreeExcept t port ∧
        t.pinAt port pin = { s.pinAt port pin with
          changeFlag := false, handler := h,
          edge := if edge = 1 then .rising else if edge = 2 then .falling else .either } ∧
        t.portAt port = { s.portAt port with flag := false, IE := true })

/-- R242: SPUR reads the spurious-interrupt counter and clears nothing. -/
def Obligations.SpurReadsSpurious : Prop :=
  (∀ (port : Index) (w1 w2 : Word), decode ⟨0#18 ++ port ++ 0x21#10, w1, w2⟩ = .ok (.spur port)) ∧
  ∀ (s : State) (port : Index),
    (port.toNat ≥ s.cfg.nPort → exec (.spur port) s = .next (s.errResult .spur .configErr)) ∧
    (port.toNat < s.cfg.nPort → exec (.spur port) s = .next (s.okResult .spur (s.portAt port).spurious))

/-- R276: RDERR reads the last-error flag and clears it, so that a second RDERR reads 0. -/
def Obligations.RderrReadsAndClears : Prop :=
  (∀ w1 w2 : Word, decode ⟨0x28, w1, w2⟩ = .ok .rderr) ∧
  ∀ s : State, ∃ t,
    exec .rderr s = .next t ∧
    t = { s with
      lastError := .ok
      events := s.events ++ [.result (.op .rderr) .ok
        (match s.lastError with | .ok => 0 | .configErr => 1 | .conflictErr => 2 | .illegal => 3)] } ∧
    exec .rderr t = .next (t.okResult .rderr 0)

/-- R271, R303: every command completes with OK, or starts a WAIT, or returns an error that changes nothing but
`lastError` and the log, or raises a fault that changes nothing but `fault`. -/
def Obligations.FailingCommandChangesNothing : Prop :=
  ∀ (i : Instr) (s : State), ∃ t, exec i s = .next t ∧
    ((∃ v new, t.events = s.events ++ new ++ [.result (.op i.opcode) .ok v] ∧ t.fault = s.fault) ∨
     (i.opcode = .wait ∧ t.events = s.events ∧ t.fault = s.fault) ∨
     (∃ st, st ≠ .ok ∧ st ≠ .illegal ∧ t = s.errResult i.opcode st) ∨
     (∃ r, t = s.faulted r))

/-- R301, R303: which commands can fail, and how: NOP, MILLIS, WAIT and RDERR never do, only PCFG and BIND report a
conflict, and only SETFREQ, TCFG and PCFG raise a fault. -/
def Obligations.OnlyListedCommandsFail : Prop :=
  ∀ (i : Instr) (s t : State), exec i s = .next t →
    (t = s.errResult i.opcode .configErr → i.opcode ∉ ([.nop, .millis, .wait, .rderr] : List Opcode)) ∧
    (t = s.errResult i.opcode .conflictErr → i.opcode ∈ ([.pcfg, .bind] : List Opcode)) ∧
    (∀ r, s.fault = none → t.fault = some r →
      (r = .freqChangeAfterConfigure ∧ i.opcode = .setfreq) ∨
      (r ∈ ([.freqUnset, .reconfigureWhileRunning] : List Fault) ∧ i.opcode ∈ ([.tcfg, .pcfg] : List Opcode)) ∨
      (r = .pinMaskInvalid ∧ i.opcode = .pcfg))

/-! ### Whole-machine rules -/

/-- R30, R7: the parameters are fixed: no step changes them. -/
def Obligations.ParametersNeverChange : Prop :=
  ∀ s t : State, step s = .next t → t.cfg = s.cfg

/-- R47: the event log only grows, and the block never reads it: with any other log the same step is taken and appends
the same entries. -/
def Obligations.EventLogOnlyGrowsAndIsNeverRead : Prop :=
  ∀ (s t : State) (log : List LogEvent), step s = .next t →
    ∃ new, t.events = s.events ++ new ∧ step { s with events := log } = .next { t with events := log ++ new }

/-- R37: the millisecond counter changes only at a service of channel 0, by 1, and at a TSTART of stopped channel 0,
to 0; so while channel 0 runs it never resets. -/
def Obligations.MillisCounterChangesInTwoWays : Prop :=
  ∀ s t : State, step s = .next t →
    (t.ms.millisCounter = s.ms.millisCounter ∨
     (s.nextChoice.1 = .take (.tmr 0) ∧ s.takeable (.tmr 0) = true ∧ t.ms.millisCounter = s.ms.millisCounter + 1) ∨
     (∃ w0 w1 w2, s.nextChoice.1 = .issue w0 w1 w2 ∧ decode ⟨w0, w1, w2⟩ = .ok (.tstart 0) ∧
        (s.tmrAt 0).enabled = false ∧ t.ms.millisCounter = 0)) ∧
    (s.nextChoice.1 = .take (.tmr 0) → s.takeable (.tmr 0) = true →
      t.ms.millisCounter = s.ms.millisCounter + 1) ∧
    ((s.tmrAt 0).enabled = true →
      t.ms.millisCounter = s.ms.millisCounter ∨ t.ms.millisCounter = s.ms.millisCounter + 1)

/-- R89, R193(b): the wait counter changes only at a service of channel 0 while a WAIT is in progress, by 1, at a WAIT
and at a TSTART of stopped channel 0, to 0. -/
def Obligations.WaitCounterHasOneWriterEach : Prop :=
  ∀ s t : State, step s = .next t →
    t.ms.waitCounter = s.ms.waitCounter ∨
    (s.nextChoice.1 = .take (.tmr 0) ∧ s.takeable (.tmr 0) = true ∧ s.ms.isWaiting = true ∧
      t.ms.waitCounter = s.ms.waitCounter + 1) ∨
    (∃ w0 w1 w2, s.nextChoice.1 = .issue w0 w1 w2 ∧ t.ms.waitCounter = 0 ∧
      ((∃ d, decode ⟨w0, w1, w2⟩ = .ok (.wait d)) ∨
       (decode ⟨w0, w1, w2⟩ = .ok (.tstart 0) ∧ (s.tmrAt 0).enabled = false)))

/-- R155, R87(c), R163: a stopped channel stays silent: until a TSTART of it is issued it stays stopped, no callback of it
begins, and it keeps its counter unless a TCFG of it is issued, which may set the counter to 0. -/
def Obligations.StoppedTimerStaysSilent : Prop :=
  ∀ (s t : State) (c : Index), step s = .next t → (s.tmrAt c).enabled = false →
    (∀ w0 w1 w2, s.nextChoice.1 = .issue w0 w1 w2 → decode ⟨w0, w1, w2⟩ ≠ .ok (.tstart c)) →
    (t.tmrAt c).enabled = false ∧
    (∀ h, t.events.count (.invoke (.tmr c) h) = s.events.count (.invoke (.tmr c) h)) ∧
    ((t.tmrAt c).counter = (s.tmrAt c).counter ∨
      ((t.tmrAt c).counter = 0 ∧ ∃ w0 w1 w2 prio unit h iv ps, s.nextChoice.1 = .issue w0 w1 w2 ∧
        decode ⟨w0, w1, w2⟩ = .ok (.tcfg c prio unit h iv ps)))

/-! ### Autonomous steps and services -/

/-- R160, R161, R163: one Tick counts every running timer channel; at the end of its period the counter rolls over and
the period event is raised, or coalesced and counted; a stopped channel does not count. -/
def Obligations.TickCountsEveryRunningTimer : Prop :=
  ∀ s : State, s.Live →
    ∃ t, stepOn .tick s = .next t ∧ t = { s with tmr := t.tmr, pwm := t.pwm } ∧
      ∀ c : Index,
        (c.toNat ≥ s.cfg.nTmr ∨ (s.tmrAt c).enabled = false → t.tmrAt c = s.tmrAt c) ∧
        (c.toNat < s.cfg.nTmr → (s.tmrAt c).enabled = true →
          (s.tmrAt c).counter + 1 < (s.tmrAt c).periodTicks →
          t.tmrAt c = { s.tmrAt c with counter := (s.tmrAt c).counter + 1 }) ∧
        (c.toNat < s.cfg.nTmr → (s.tmrAt c).enabled = true →
          (s.tmrAt c).counter + 1 ≥ (s.tmrAt c).periodTicks → (s.tmrAt c).IF = false →
          t.tmrAt c = { s.tmrAt c with counter := 0, IF := true }) ∧
        (c.toNat < s.cfg.nTmr → (s.tmrAt c).enabled = true →
          (s.tmrAt c).counter + 1 ≥ (s.tmrAt c).periodTicks → (s.tmrAt c).IF = true →
          t.tmrAt c = { s.tmrAt c with counter := 0, missed := saturatingSucc (s.tmrAt c).missed })

/-- R215, R40: one Tick of a PWM channel: event A at rollover, event B at the compare value in Normal mode only, each
coalesced and counted when already pending, and never both. -/
def Obligations.TickRaisesCompareEvents : Prop :=
  ∀ s : State, s.Live →
    ∃ t, stepOn .tick s = .next t ∧
      ∀ c : Index,
        (c.toNat ≥ s.cfg.nPwm ∨ (s.pwmAt c).enabled = false → t.pwmAt c = s.pwmAt c) ∧
        (c.toNat < s.cfg.nPwm → (s.pwmAt c).enabled = true →
          let w := s.pwmAt c
          let n := if w.counter + 1 ≥ w.periodTicks then 0 else w.counter + 1
          let a := n = 0
          let b := w.dutyTicks ≠ 0 ∧ ¬(w.dutyTicks = w.periodTicks ∧ w.periodTicks ≥ 1) ∧ n = w.dutyTicks
          ¬(a ∧ b) ∧
          t.pwmAt c = { w with
            counter := n
            IFA := w.IFA || decide a
            IFB := w.IFB || decide b
            missed := if (a ∧ w.IFA = true) ∨ (b ∧ w.IFB = true) then saturatingSucc w.missed else w.missed })

/-- R162: with period P and nothing serviced, the k-th period event comes at the (k·P)-th Tick: after k·P + r Ticks the
counter is r, the first event is pending and the k − 1 later ones were coalesced and counted. -/
def Obligations.PeriodEventsComeEveryPeriod : Prop :=
  ∀ (s : State) (c : Index) (k r : Nat), s.Live → c.toNat < s.cfg.nTmr →
    (s.tmrAt c).enabled = true → (s.tmrAt c).counter = 0 → (s.tmrAt c).IF = false → (s.tmrAt c).missed = 0 →
    r < (s.tmrAt c).periodTicks →
    ∃ t, SucceedsIn (k * (s.tmrAt c).periodTicks + r)
        { s with inbox := List.replicate (k * (s.tmrAt c).periodTicks + r) .tick } t ∧
      t.tmrAt c = { s.tmrAt c with
        counter := r
        IF := decide (k ≥ 1)
        missed := BitVec.ofNat 32 (min (k - 1) (2 ^ 32 - 1)) }

/-- R180, R181, R184, R318: the timer service clears the flag, advances or restarts the postscale counter, counts the
millisecond clock on channel 0 (wrapping), and invokes the callback exactly when it fires with a handler. -/
def Obligations.TimerServiceCountsAndFires : Prop :=
  ∀ (s : State) (c : Index), s.Live → s.takeable (.tmr c) = true →
    ∃ t, stepOn (.take (.tmr c)) s = .next t ∧
      t = { s with tmr := t.tmr, ms := t.ms, ctx := t.ctx, events := t.events } ∧
      s.TimersAgreeExcept t c ∧
      (let u := s.tmrAt c
       (u.softCounter.toNat + 1 < u.softCountMax.toNat →
         t.tmrAt c = { u with IF := false, softCounter := u.softCounter + 1 } ∧
         t.ctx = s.ctx ∧ t.events = s.events) ∧
       (u.softCounter.toNat + 1 ≥ u.softCountMax.toNat →
         t.tmrAt c = { u with IF := false, softCounter := 0 } ∧
         (u.callback = 0 → t.ctx = s.ctx ∧ t.events = s.events) ∧
         (u.callback ≠ 0 →
           t.ctx = .code (.timerCB c) u.priority none :: s.ctx ∧
           t.events = s.events ++ [.invoke (.tmr c) u.callback]))) ∧
      (c ≠ 0 → t.ms = s.ms) ∧
      (c = 0 → t.ms.millisCounter.toNat = (s.ms.millisCounter.toNat + 1) % 2 ^ 32 ∧
        t.ms.isWaiting = s.ms.isWaiting ∧
        t.ms.waitCounter.toNat =
          if s.ms.isWaiting = true then (s.ms.waitCounter.toNat + 1) % 2 ^ 32 else s.ms.waitCounter.toNat)

/-- R192: a spinning context polls: it completes when the wait counter has reached the duration, else nothing changes;
Spin is enabled in no other state, and a spinning context issues no command and does not Return. -/
def Obligations.SpinCompletesWait : Prop :=
  (∀ s : State, s.enabled .spin = true ↔ ∃ k l d below, s.ctx = .code k l (some d) :: below) ∧
  ∀ (s : State) (k : ContextKind) (l : Level) (d : Word) (below : List Context), s.Live →
    s.ctx = .code k l (some d) :: below →
    (d.toNat ≤ s.ms.waitCounter.toNat →
      stepOn .spin s = .next { s with
        ms := { s.ms with isWaiting := false }
        ctx := .code k l none :: below
        events := s.events ++ [.result (.op .wait) .ok 0] }) ∧
    (s.ms.waitCounter.toNat < d.toNat → stepOn .spin s = .next s) ∧
    (∀ w0 w1 w2, s.enabled (.issue w0 w1 w2) = false) ∧ s.enabled .ret = false ∧ s.enabled .dispatchStep = false

/-- R216, R217: service A drives the time-0 level; service B drives Low unless the channel is all-high. -/
def Obligations.PwmServicesDrivePin : Prop :=
  ∀ (s : State) (c : Index), s.Live →
    (s.takeable (.pwmA c) = true →
      ∃ t, stepOn (.take (.pwmA c)) s = .next t ∧
        (let w := s.pwmAt c
         let level := if w.dutyTicks > 0 then PinLevel.high else PinLevel.low
         t = { s with pwm := t.pwm, pin := t.pin, events := s.events ++ [.drive w.port w.pinIndex level] } ∧
         s.PwmsAgreeExcept t c ∧ s.PinsAgreeExcept t w.port w.pinIndex ∧
         t.pwmAt c = { w with IFA := false } ∧
         t.pinAt w.port w.pinIndex = { s.pinAt w.port w.pinIndex with outLevel := some level })) ∧
    (s.takeable (.pwmB c) = true →
      ∃ t, stepOn (.take (.pwmB c)) s = .next t ∧
        (let w := s.pwmAt c
         s.PwmsAgreeExcept t c ∧ t.pwmAt c = { w with IFB := false } ∧
         (w.dutyTicks < w.periodTicks →
           t = { s with pwm := t.pwm, pin := t.pin, events := s.events ++ [.drive w.port w.pinIndex .low] } ∧
           s.PinsAgreeExcept t w.port w.pinIndex ∧
           t.pinAt w.port w.pinIndex = { s.pinAt w.port w.pinIndex with outLevel := some .low }) ∧
         (w.dutyTicks ≥ w.periodTicks → t = { s with pwm := t.pwm })))

/-- R310, R312: the sources, their flags, masks and levels, and which of them may be taken. -/
def Obligations.TakeNeedsHighestEligibleSource : Prop :=
  ∀ s : State,
    (∀ c, s.eligible (.tmr c) = true ↔ c.toNat < s.cfg.nTmr ∧ (s.tmrAt c).IF = true ∧ (s.tmrAt c).enabled = true ∧
      s.currentLevel.toNat < (s.tmrAt c).priority.toNat) ∧
    (∀ c, s.eligible (.pwmA c) = true ↔ c.toNat < s.cfg.nPwm ∧ (s.pwmAt c).IFA = true ∧ (s.pwmAt c).enabled = true ∧
      s.currentLevel.toNat < (s.pwmAt c).priority.toNat) ∧
    (∀ c, s.eligible (.pwmB c) = true ↔ c.toNat < s.cfg.nPwm ∧ (s.pwmAt c).IFB = true ∧ (s.pwmAt c).enabled = true ∧
      s.currentLevel.toNat < (s.pwmAt c).priority.toNat) ∧
    (∀ p, s.eligible (.pcn p) = true ↔ p.toNat < s.cfg.nPort ∧ (s.portAt p).flag = true ∧ (s.portAt p).IE = true ∧
      s.currentLevel.toNat < (bankGet s.cfg.portPrio p).toNat) ∧
    (∀ src, s.enabled (.take src) = true ↔ s.eligible src = true ∧
      ∀ r, s.eligible r = true → (s.sourceLevel r).toNat ≤ (s.sourceLevel src).toNat)

/-- R313: of two eligible sources at the highest level, either may be taken first; and whenever some source is eligible,
some source may be taken. -/
def Obligations.EqualLevelsMayBeTakenInAnyOrder : Prop :=
  (∀ (s : State) (a b : Source), s.takeable a = true → s.eligible b = true → s.sourceLevel b = s.sourceLevel a →
    s.takeable b = true) ∧
  (∀ (s : State) (a : Source), s.eligible a = true → ∃ b, s.takeable b = true)

/-- R314: a source whose level is 0 is never taken, in any state. That choosing it leaves the state as it is, is the
model's choice (assumption 4): a choice no rule enables is passed over. -/
def Obligations.LevelZeroIsNeverTaken : Prop :=
  ∀ (s : State) (src : Source), s.sourceLevel src = 0 →
    s.enabled (.take src) = false ∧ (s.Live → stepOn (.take src) s = .next s)

/-- R315, R312: taking an interrupt changes the stack at most by one entry on top, at the source's level, which is above
the current one and masks every source at or below it; the entries beneath are unchanged. -/
def Obligations.InterruptEntrySavesOnlyStack : Prop :=
  ∀ (s t : State) (src : Source), s.Live → s.takeable src = true → stepOn (.take src) s = .next t →
    (t.ctx = s.ctx ∨
      ∃ e, t.ctx = e :: s.ctx ∧ e.level = s.sourceLevel src ∧ s.currentLevel.toNat < e.level.toNat ∧
        t.currentLevel = e.level ∧ ∀ r, (t.sourceLevel r).toNat ≤ e.level.toNat → t.eligible r = false) ∧
    (∀ p, src = .pcn p → t = { s with ctx := .dispatch p (bankGet s.cfg.portPrio p) 0 :: s.ctx }) ∧
    (∀ c, src = .pwmA c ∨ src = .pwmB c → t.ctx = s.ctx)

/-- R255, R318: the DispatchStep, enabled for a dispatch entry on top: with no flagged pin at or after the cursor the port flag is cleared and the service
ends; else the least such pin's handler is invoked at the dispatch's level, or, with no handler, its flag is cleared
and counted as spurious. -/
def Obligations.DispatchStepWalksFlaggedPins : Prop :=
  (∀ s : State, s.enabled .dispatchStep = true ↔ ∃ p l k rest, s.ctx = .dispatch p l k :: rest) ∧
  ∀ (s : State) (p : Index) (l : Level) (k : Nat) (rest : List Context), s.Live →
    s.ctx = .dispatch p l k :: rest →
    ((∀ j : Index, k ≤ j.toNat → j.toNat < s.cfg.nPin → (s.pinAt p j).changeFlag = false) →
      ∃ t, stepOn .dispatchStep s = .next t ∧ t = { s with port := t.port, ctx := rest } ∧
        s.PortsAgreeExcept t p ∧ t.portAt p = { s.portAt p with flag := false }) ∧
    (∀ j : Index, k ≤ j.toNat → j.toNat < s.cfg.nPin → (s.pinAt p j).changeFlag = true →
      (∀ j' : Index, k ≤ j'.toNat → j'.toNat < j.toNat → (s.pinAt p j').changeFlag = false) →
      ((s.pinAt p j).handler ≠ 0 →
        stepOn .dispatchStep s = .next { s with
          ctx := .code (.pinCB p j) l none :: .dispatch p l j.toNat :: rest
          events := s.events ++ [.invoke (.pin p j) (s.pinAt p j).handler] }) ∧
      ((s.pinAt p j).handler = 0 →
        ∃ t, stepOn .dispatchStep s = .next t ∧
          t = { s with pin := t.pin, port := t.port, ctx := .dispatch p l (j.toNat + 1) :: rest } ∧
          s.PinsAgreeExcept t p j ∧ s.PortsAgreeExcept t p ∧
          t.pinAt p j = { s.pinAt p j with changeFlag := false } ∧
          t.portAt p = { s.portAt p with spurious := saturatingSucc (s.portAt p).spurious }))

/-- R320: Return pops a callback that is not spinning; a pin callback's return clears its pin's flag and moves the
dispatch beneath to the next pin; the foreground never returns. -/
def Obligations.ReturnResumesInterruptedContext : Prop :=
  (∀ s : State, s.enabled .ret = true ↔ ∃ kind l rest, s.ctx = .code kind l none :: rest ∧ kind ≠ .fg) ∧
  ∀ (s : State) (rest : List Context), s.Live →
    (∀ c l, s.ctx = .code (.timerCB c) l none :: rest → stepOn .ret s = .next { s with ctx := rest }) ∧
    (∀ p j l l' k, s.ctx = .code (.pinCB p j) l none :: .dispatch p l' k :: rest →
      ∃ t, stepOn .ret s = .next t ∧ t = { s with pin := t.pin, ctx := .dispatch p l' (j.toNat + 1) :: rest } ∧
        s.PinsAgreeExcept t p j ∧ t.pinAt p j = { s.pinAt p j with changeFlag := false })

/-- R241, R250, R251: an edge sets the pin's and the port's flag exactly when it matches the pin's edge mode; a spurious
flag sets them always; nothing else changes. -/
def Obligations.PinEdgeSetsFlagsWhenItMatches : Prop :=
  ∀ (s : State) (p i : Index) (dir : EdgeDir), s.Live → p.toNat < s.cfg.nPort → i.toNat < s.cfg.nPin →
    ((s.pinAt p i).edge = .either ∨ ((s.pinAt p i).edge = .rising ∧ dir = .rise) ∨
        ((s.pinAt p i).edge = .falling ∧ dir = .fall) →
      stepOn (.pinEdge p i dir) s = stepOn (.spuriousFlag p i) s) ∧
    ((s.pinAt p i).edge = .none ∨ ((s.pinAt p i).edge = .rising ∧ dir = .fall) ∨
        ((s.pinAt p i).edge = .falling ∧ dir = .rise) →
      stepOn (.pinEdge p i dir) s = .next s) ∧
    ∃ t, stepOn (.spuriousFlag p i) s = .next t ∧ t = { s with pin := t.pin, port := t.port } ∧
      s.PinsAgreeExcept t p i ∧ s.PortsAgreeExcept t p ∧
      t.pinAt p i = { s.pinAt p i with changeFlag := true } ∧ t.portAt p = { s.portAt p with flag := true }

/-- R256: with no other flag pending on the port and its interrupt enabled above the current level, a matching edge, the
Take, a DispatchStep, the handler's Return and a final DispatchStep invoke the bound handler exactly once and leave
every pin and port as before the edge. -/
def Obligations.BoundEdgeInvokesHandlerOnce : Prop :=
  ∀ (s : State) (p i : Index) (dir : EdgeDir), s.Live → p.toNat < s.cfg.nPort → i.toNat < s.cfg.nPin →
    edgeMatches (s.pinAt p i).edge dir = true → (s.pinAt p i).handler ≠ 0 →
    (∀ j, (s.pinAt p j).changeFlag = false) → (s.portAt p).flag = false → (s.portAt p).IE = true →
    s.currentLevel.toNat < (bankGet s.cfg.portPrio p).toNat → (∀ src, s.eligible src = false) →
    ∃ t, SucceedsIn 5 { s with inbox := [.pinEdge p i dir, .take (.pcn p), .dispatchStep, .ret, .dispatchStep] } t ∧
      t.events = s.events ++ [.invoke (.pin p i) (s.pinAt p i).handler] ∧ t.ctx = s.ctx ∧
      (∀ p' i', t.pinAt p' i' = s.pinAt p' i') ∧ (∀ p', t.portAt p' = s.portAt p') ∧
      t = { s with pin := t.pin, port := t.port, events := t.events, inbox := [] }

/-! ### Arithmetic -/

/-- R211, R354: the compare value is the duty fraction of the period rounded half up, never above the period, and 0 or
the whole period exactly in the degenerate ranges. -/
def Obligations.DutyConversionRoundsHalfUp : Prop :=
  ∀ (f : BitVec 17) (period : Nat), f.toNat ≤ 65536 →
    dutyTicksOf f period ≤ period ∧
    65536 * dutyTicksOf f period ≤ f.toNat * period + 32768 ∧
    f.toNat * period + 32768 < 65536 * (dutyTicksOf f period + 1) ∧
    (dutyTicksOf f period = 0 ↔ f.toNat * period < 32768) ∧
    (dutyTicksOf f period = period ↔ (65536 - f.toNat) * period ≤ 32768) ∧
    dutyTicksOf 0 period = 0 ∧ dutyTicksOf 65536 period = period

/-- R201, R131: the PWM period is the exact conversion clamped into its bounds. -/
def Obligations.PwmPeriodIsClampedExactly : Prop :=
  ∀ (cfg : Config) (f n : Word) (r : Rate) (unit : TimeUnit), cfg.wellFormed = true →
    cfg.rates[f.toNat]? = some r →
    (n.toNat * (r.count unit).toNat ≤ cfg.pwmMin → pwmPeriod cfg f unit n = cfg.pwmMin) ∧
    (cfg.pwmMax ≤ n.toNat * (r.count unit).toNat → pwmPeriod cfg f unit n = cfg.pwmMax) ∧
    (cfg.pwmMin ≤ n.toNat * (r.count unit).toNat → n.toNat * (r.count unit).toNat ≤ cfg.pwmMax →
      pwmPeriod cfg f unit n = n.toNat * (r.count unit).toNat) ∧
    1 ≤ pwmPeriod cfg f unit n ∧ pwmPeriod cfg f unit n ≤ 2 ^ cfg.cntW - 1

/-! ### Invariants -/

/-- The invariant of the state holds after reset, in every configuration the spec admits; the configuration
`State.reset` takes (the model's choice, assumption 1) is one of them. -/
def Obligations.InvariantHoldsAtReset : Prop :=
  (∀ cfg : Config, cfg.wellFormed = true → (State.resetWith cfg).Inv) ∧
  State.reset = State.resetWith Config.vectors ∧ Config.vectors.wellFormed = true

/-- R35, R39, R43, R46: every step keeps the invariant of the state, from every state that meets it. -/
def Obligations.EveryStepKeepsInvariant : Prop :=
  ∀ s t : State, s.Inv → step s = .next t → t.Inv

/-- R39: items (a)–(f) hold of every PWM channel after reset and after every step. -/
def Obligations.PwmChannelsStaySound : Prop :=
  (∀ cfg : Config, cfg.wellFormed = true → (State.resetWith cfg).PwmsConsistent) ∧
  (∀ s t : State, s.PwmsConsistent → step s = .next t → t.PwmsConsistent) ∧
  (∀ s : State, s.PwmsConsistent → s.PwmsSound)

/-- R43: no pin is both bound and claimed by a PWM channel, and no two PWM channels claim the same pin, after reset and
after every step; a successful BIND leaves the new handler in the pin's one slot. -/
def Obligations.PinClaimsStayExclusive : Prop :=
  (∀ cfg : Config, cfg.wellFormed = true → (State.resetWith cfg).PinsExclusive) ∧
  (∀ s t : State, s.PinsExclusive → step s = .next t → t.PinsExclusive) ∧
  (∀ (s t : State) (p i : Index) (e : BitVec 2) (h : HandlerId),
    exec (.bind p i e h) s = .next (t.okResult .bind 0) → (t.pinAt p i).handler = h)

/-- R321, R46: the context stack keeps its shape at every step, its levels never decrease from bottom to top, and its
length is at most twice the top level plus one, so at most 15 entries. -/
def Obligations.ContextStackStaysSound : Prop :=
  (∀ s t : State, StackSound s.cfg s.ctx → step s = .next t → StackSound t.cfg t.ctx) ∧
  (∀ (cfg : Config) (e : Context) (stack : List Context), StackSound cfg (e :: stack) →
    (levelOf stack).toNat ≤ e.level.toNat ∧ (e :: stack).length ≤ 2 * e.level.toNat + 1) ∧
  (∀ (cfg : Config) (stack : List Context), StackSound cfg stack → stack.length ≤ 15)

/-- R218: after PSTART, in any run in which every Tick finds no event of the channel pending and no PDUTY or PSTOP of it
is issued, the pin is High exactly while the counter is below the compare value whenever no event of the channel is
pending: for d counts of every P in Normal mode, never in AllLow, always in AllHigh. A Tick advances the counter by one,
modulo P; a service of the channel leaves nothing of it pending; and every other step, whatever it is, a service of another
source or a command among them, keeps the waveform and the counter. -/
def Obligations.PromptWaveformIsHighForDutyCounts : Prop :=
  (∀ (s t : State) (ch : Index), ch.toNat < s.cfg.nPwm → (s.pwmAt ch).pinMask ≠ 0 → (s.pwmAt ch).enabled = false →
    (s.pwmAt ch).periodTicks ≥ 1 → exec (.pstart ch) s = .next t →
    WaveformHolds ch (s.pwmAt ch).periodTicks (s.pwmAt ch).dutyTicks t ∧ t.pwmQuiet ch ∧ (t.pwmAt ch).counter = 0) ∧
  (∀ (s t : State) (ch : Index) (period duty : Nat), s.Live → ch.toNat < s.cfg.nPwm →
    WaveformHolds ch period duty s → s.pwmQuiet ch → stepOn .tick s = .next t →
    WaveformHolds ch period duty t ∧ (t.pwmAt ch).counter = ((s.pwmAt ch).counter + 1) % period) ∧
  (∀ (s t : State) (ch : Index) (period duty : Nat), s.Live → WaveformHolds ch period duty s →
    (s.takeable (.pwmA ch) = true ∧ stepOn (.take (.pwmA ch)) s = .next t ∨
      s.takeable (.pwmB ch) = true ∧ stepOn (.take (.pwmB ch)) s = .next t) →
    WaveformHolds ch period duty t ∧ t.pwmQuiet ch ∧ (t.pwmAt ch).counter = (s.pwmAt ch).counter) ∧
  (∀ (s t : State) (ch : Index) (period duty : Nat), s.Inv → ch.toNat < s.cfg.nPwm →
    WaveformHolds ch period duty s → step s = .next t → s.nextChoice.1 ≠ .tick →
    ¬changesRunningPwm s.nextChoice.1 ch →
    WaveformHolds ch period duty t ∧ (t.pwmAt ch).counter = (s.pwmAt ch).counter)
end

