-- ==== Sys2Proof/Laws/State.lean ====
section
/-! SUPPORT. One lemma per field of the state and named update, true by unfolding, so that no later proof unfolds a
record update. -/

namespace Sys2Proof.Machine

variable (s : State)

/-! ### setTmr -/

@[simp] theorem State.setTmr_cfg (k : Index) (x : TimerChannel) : (s.setTmr k x).cfg = s.cfg := rfl
@[simp] theorem State.setTmr_freqSel (k : Index) (x : TimerChannel) : (s.setTmr k x).freqSel = s.freqSel := rfl
@[simp] theorem State.setTmr_tmr (k : Index) (x : TimerChannel) : (s.setTmr k x).tmr = bankSet s.tmr k x := rfl
@[simp] theorem State.setTmr_ms (k : Index) (x : TimerChannel) : (s.setTmr k x).ms = s.ms := rfl
@[simp] theorem State.setTmr_pwm (k : Index) (x : TimerChannel) : (s.setTmr k x).pwm = s.pwm := rfl
@[simp] theorem State.setTmr_pwmAt (k : Index) (x : TimerChannel) (c : Index) : (s.setTmr k x).pwmAt c = s.pwmAt c := rfl
@[simp] theorem State.setTmr_pin (k : Index) (x : TimerChannel) : (s.setTmr k x).pin = s.pin := rfl
@[simp] theorem State.setTmr_pinAt (k : Index) (x : TimerChannel) (p i : Index) : (s.setTmr k x).pinAt p i = s.pinAt p i := rfl
@[simp] theorem State.setTmr_port (k : Index) (x : TimerChannel) : (s.setTmr k x).port = s.port := rfl
@[simp] theorem State.setTmr_portAt (k : Index) (x : TimerChannel) (p : Index) : (s.setTmr k x).portAt p = s.portAt p := rfl
@[simp] theorem State.setTmr_lastError (k : Index) (x : TimerChannel) : (s.setTmr k x).lastError = s.lastError := rfl
@[simp] theorem State.setTmr_fault (k : Index) (x : TimerChannel) : (s.setTmr k x).fault = s.fault := rfl
@[simp] theorem State.setTmr_ctx (k : Index) (x : TimerChannel) : (s.setTmr k x).ctx = s.ctx := rfl
@[simp] theorem State.setTmr_events (k : Index) (x : TimerChannel) : (s.setTmr k x).events = s.events := rfl
@[simp] theorem State.setTmr_inbox (k : Index) (x : TimerChannel) : (s.setTmr k x).inbox = s.inbox := rfl
@[simp] theorem State.setTmr_choiceIndex (k : Index) (x : TimerChannel) : (s.setTmr k x).choiceIndex = s.choiceIndex := rfl

/-! ### setPwm -/

@[simp] theorem State.setPwm_cfg (k : Index) (x : PwmChannel) : (s.setPwm k x).cfg = s.cfg := rfl
@[simp] theorem State.setPwm_freqSel (k : Index) (x : PwmChannel) : (s.setPwm k x).freqSel = s.freqSel := rfl
@[simp] theorem State.setPwm_tmr (k : Index) (x : PwmChannel) : (s.setPwm k x).tmr = s.tmr := rfl
@[simp] theorem State.setPwm_tmrAt (k : Index) (x : PwmChannel) (c : Index) : (s.setPwm k x).tmrAt c = s.tmrAt c := rfl
@[simp] theorem State.setPwm_ms (k : Index) (x : PwmChannel) : (s.setPwm k x).ms = s.ms := rfl
@[simp] theorem State.setPwm_pwm (k : Index) (x : PwmChannel) : (s.setPwm k x).pwm = bankSet s.pwm k x := rfl
@[simp] theorem State.setPwm_pin (k : Index) (x : PwmChannel) : (s.setPwm k x).pin = s.pin := rfl
@[simp] theorem State.setPwm_pinAt (k : Index) (x : PwmChannel) (p i : Index) : (s.setPwm k x).pinAt p i = s.pinAt p i := rfl
@[simp] theorem State.setPwm_port (k : Index) (x : PwmChannel) : (s.setPwm k x).port = s.port := rfl
@[simp] theorem State.setPwm_portAt (k : Index) (x : PwmChannel) (p : Index) : (s.setPwm k x).portAt p = s.portAt p := rfl
@[simp] theorem State.setPwm_lastError (k : Index) (x : PwmChannel) : (s.setPwm k x).lastError = s.lastError := rfl
@[simp] theorem State.setPwm_fault (k : Index) (x : PwmChannel) : (s.setPwm k x).fault = s.fault := rfl
@[simp] theorem State.setPwm_ctx (k : Index) (x : PwmChannel) : (s.setPwm k x).ctx = s.ctx := rfl
@[simp] theorem State.setPwm_events (k : Index) (x : PwmChannel) : (s.setPwm k x).events = s.events := rfl
@[simp] theorem State.setPwm_inbox (k : Index) (x : PwmChannel) : (s.setPwm k x).inbox = s.inbox := rfl
@[simp] theorem State.setPwm_choiceIndex (k : Index) (x : PwmChannel) : (s.setPwm k x).choiceIndex = s.choiceIndex := rfl

/-! ### setPin -/

@[simp] theorem State.setPin_cfg (k m : Index) (x : Pin) : (s.setPin k m x).cfg = s.cfg := rfl
@[simp] theorem State.setPin_freqSel (k m : Index) (x : Pin) : (s.setPin k m x).freqSel = s.freqSel := rfl
@[simp] theorem State.setPin_tmr (k m : Index) (x : Pin) : (s.setPin k m x).tmr = s.tmr := rfl
@[simp] theorem State.setPin_tmrAt (k m : Index) (x : Pin) (c : Index) : (s.setPin k m x).tmrAt c = s.tmrAt c := rfl
@[simp] theorem State.setPin_ms (k m : Index) (x : Pin) : (s.setPin k m x).ms = s.ms := rfl
@[simp] theorem State.setPin_pwm (k m : Index) (x : Pin) : (s.setPin k m x).pwm = s.pwm := rfl
@[simp] theorem State.setPin_pwmAt (k m : Index) (x : Pin) (c : Index) : (s.setPin k m x).pwmAt c = s.pwmAt c := rfl
@[simp] theorem State.setPin_pin (k m : Index) (x : Pin) : (s.setPin k m x).pin = bankSet s.pin k (bankSet (bankGet s.pin k) m x) := rfl
@[simp] theorem State.setPin_port (k m : Index) (x : Pin) : (s.setPin k m x).port = s.port := rfl
@[simp] theorem State.setPin_portAt (k m : Index) (x : Pin) (p : Index) : (s.setPin k m x).portAt p = s.portAt p := rfl
@[simp] theorem State.setPin_lastError (k m : Index) (x : Pin) : (s.setPin k m x).lastError = s.lastError := rfl
@[simp] theorem State.setPin_fault (k m : Index) (x : Pin) : (s.setPin k m x).fault = s.fault := rfl
@[simp] theorem State.setPin_ctx (k m : Index) (x : Pin) : (s.setPin k m x).ctx = s.ctx := rfl
@[simp] theorem State.setPin_events (k m : Index) (x : Pin) : (s.setPin k m x).events = s.events := rfl
@[simp] theorem State.setPin_inbox (k m : Index) (x : Pin) : (s.setPin k m x).inbox = s.inbox := rfl
@[simp] theorem State.setPin_choiceIndex (k m : Index) (x : Pin) : (s.setPin k m x).choiceIndex = s.choiceIndex := rfl

/-! ### setPort -/

@[simp] theorem State.setPort_cfg (k : Index) (x : Port) : (s.setPort k x).cfg = s.cfg := rfl
@[simp] theorem State.setPort_freqSel (k : Index) (x : Port) : (s.setPort k x).freqSel = s.freqSel := rfl
@[simp] theorem State.setPort_tmr (k : Index) (x : Port) : (s.setPort k x).tmr = s.tmr := rfl
@[simp] theorem State.setPort_tmrAt (k : Index) (x : Port) (c : Index) : (s.setPort k x).tmrAt c = s.tmrAt c := rfl
@[simp] theorem State.setPort_ms (k : Index) (x : Port) : (s.setPort k x).ms = s.ms := rfl
@[simp] theorem State.setPort_pwm (k : Index) (x : Port) : (s.setPort k x).pwm = s.pwm := rfl
@[simp] theorem State.setPort_pwmAt (k : Index) (x : Port) (c : Index) : (s.setPort k x).pwmAt c = s.pwmAt c := rfl
@[simp] theorem State.setPort_pin (k : Index) (x : Port) : (s.setPort k x).pin = s.pin := rfl
@[simp] theorem State.setPort_pinAt (k : Index) (x : Port) (p i : Index) : (s.setPort k x).pinAt p i = s.pinAt p i := rfl
@[simp] theorem State.setPort_port (k : Index) (x : Port) : (s.setPort k x).port = bankSet s.port k x := rfl
@[simp] theorem State.setPort_lastError (k : Index) (x : Port) : (s.setPort k x).lastError = s.lastError := rfl
@[simp] theorem State.setPort_fault (k : Index) (x : Port) : (s.setPort k x).fault = s.fault := rfl
@[simp] theorem State.setPort_ctx (k : Index) (x : Port) : (s.setPort k x).ctx = s.ctx := rfl
@[simp] theorem State.setPort_events (k : Index) (x : Port) : (s.setPort k x).events = s.events := rfl
@[simp] theorem State.setPort_inbox (k : Index) (x : Port) : (s.setPort k x).inbox = s.inbox := rfl
@[simp] theorem State.setPort_choiceIndex (k : Index) (x : Port) : (s.setPort k x).choiceIndex = s.choiceIndex := rfl

/-! ### log -/

@[simp] theorem State.log_cfg (e : LogEvent) : (s.log e).cfg = s.cfg := rfl
@[simp] theorem State.log_freqSel (e : LogEvent) : (s.log e).freqSel = s.freqSel := rfl
@[simp] theorem State.log_tmr (e : LogEvent) : (s.log e).tmr = s.tmr := rfl
@[simp] theorem State.log_tmrAt (e : LogEvent) (c : Index) : (s.log e).tmrAt c = s.tmrAt c := rfl
@[simp] theorem State.log_ms (e : LogEvent) : (s.log e).ms = s.ms := rfl
@[simp] theorem State.log_pwm (e : LogEvent) : (s.log e).pwm = s.pwm := rfl
@[simp] theorem State.log_pwmAt (e : LogEvent) (c : Index) : (s.log e).pwmAt c = s.pwmAt c := rfl
@[simp] theorem State.log_pin (e : LogEvent) : (s.log e).pin = s.pin := rfl
@[simp] theorem State.log_pinAt (e : LogEvent) (p i : Index) : (s.log e).pinAt p i = s.pinAt p i := rfl
@[simp] theorem State.log_port (e : LogEvent) : (s.log e).port = s.port := rfl
@[simp] theorem State.log_portAt (e : LogEvent) (p : Index) : (s.log e).portAt p = s.portAt p := rfl
@[simp] theorem State.log_lastError (e : LogEvent) : (s.log e).lastError = s.lastError := rfl
@[simp] theorem State.log_fault (e : LogEvent) : (s.log e).fault = s.fault := rfl
@[simp] theorem State.log_ctx (e : LogEvent) : (s.log e).ctx = s.ctx := rfl
@[simp] theorem State.log_events (e : LogEvent) : (s.log e).events = s.events ++ [e] := rfl
@[simp] theorem State.log_inbox (e : LogEvent) : (s.log e).inbox = s.inbox := rfl
@[simp] theorem State.log_choiceIndex (e : LogEvent) : (s.log e).choiceIndex = s.choiceIndex := rfl

/-! ### complete -/

@[simp] theorem State.complete_cfg (o : LogOp) (st : Status) (v : Word) : (s.complete o st v).cfg = s.cfg := rfl
@[simp] theorem State.complete_freqSel (o : LogOp) (st : Status) (v : Word) : (s.complete o st v).freqSel = s.freqSel := rfl
@[simp] theorem State.complete_tmr (o : LogOp) (st : Status) (v : Word) : (s.complete o st v).tmr = s.tmr := rfl
@[simp] theorem State.complete_tmrAt (o : LogOp) (st : Status) (v : Word) (c : Index) : (s.complete o st v).tmrAt c = s.tmrAt c := rfl
@[simp] theorem State.complete_ms (o : LogOp) (st : Status) (v : Word) : (s.complete o st v).ms = s.ms := rfl
@[simp] theorem State.complete_pwm (o : LogOp) (st : Status) (v : Word) : (s.complete o st v).pwm = s.pwm := rfl
@[simp] theorem State.complete_pwmAt (o : LogOp) (st : Status) (v : Word) (c : Index) : (s.complete o st v).pwmAt c = s.pwmAt c := rfl
@[simp] theorem State.complete_pin (o : LogOp) (st : Status) (v : Word) : (s.complete o st v).pin = s.pin := rfl
@[simp] theorem State.complete_pinAt (o : LogOp) (st : Status) (v : Word) (p i : Index) : (s.complete o st v).pinAt p i = s.pinAt p i := rfl
@[simp] theorem State.complete_port (o : LogOp) (st : Status) (v : Word) : (s.complete o st v).port = s.port := rfl
@[simp] theorem State.complete_portAt (o : LogOp) (st : Status) (v : Word) (p : Index) : (s.complete o st v).portAt p = s.portAt p := rfl
@[simp] theorem State.complete_lastError (o : LogOp) (st : Status) (v : Word) : (s.complete o st v).lastError = if st = .ok then s.lastError else st := rfl
@[simp] theorem State.complete_fault (o : LogOp) (st : Status) (v : Word) : (s.complete o st v).fault = s.fault := rfl
@[simp] theorem State.complete_ctx (o : LogOp) (st : Status) (v : Word) : (s.complete o st v).ctx = s.ctx := rfl
@[simp] theorem State.complete_events (o : LogOp) (st : Status) (v : Word) : (s.complete o st v).events = s.events ++ [.result o st v] := rfl
@[simp] theorem State.complete_inbox (o : LogOp) (st : Status) (v : Word) : (s.complete o st v).inbox = s.inbox := rfl
@[simp] theorem State.complete_choiceIndex (o : LogOp) (st : Status) (v : Word) : (s.complete o st v).choiceIndex = s.choiceIndex := rfl

/-! ### enter -/

@[simp] theorem State.enter_cfg (e : Context) : (s.enter e).cfg = s.cfg := rfl
@[simp] theorem State.enter_freqSel (e : Context) : (s.enter e).freqSel = s.freqSel := rfl
@[simp] theorem State.enter_tmr (e : Context) : (s.enter e).tmr = s.tmr := rfl
@[simp] theorem State.enter_tmrAt (e : Context) (c : Index) : (s.enter e).tmrAt c = s.tmrAt c := rfl
@[simp] theorem State.enter_ms (e : Context) : (s.enter e).ms = s.ms := rfl
@[simp] theorem State.enter_pwm (e : Context) : (s.enter e).pwm = s.pwm := rfl
@[simp] theorem State.enter_pwmAt (e : Context) (c : Index) : (s.enter e).pwmAt c = s.pwmAt c := rfl
@[simp] theorem State.enter_pin (e : Context) : (s.enter e).pin = s.pin := rfl
@[simp] theorem State.enter_pinAt (e : Context) (p i : Index) : (s.enter e).pinAt p i = s.pinAt p i := rfl
@[simp] theorem State.enter_port (e : Context) : (s.enter e).port = s.port := rfl
@[simp] theorem State.enter_portAt (e : Context) (p : Index) : (s.enter e).portAt p = s.portAt p := rfl
@[simp] theorem State.enter_lastError (e : Context) : (s.enter e).lastError = s.lastError := rfl
@[simp] theorem State.enter_fault (e : Context) : (s.enter e).fault = s.fault := rfl
@[simp] theorem State.enter_ctx (e : Context) : (s.enter e).ctx = e :: s.ctx := rfl
@[simp] theorem State.enter_events (e : Context) : (s.enter e).events = s.events := rfl
@[simp] theorem State.enter_inbox (e : Context) : (s.enter e).inbox = s.inbox := rfl
@[simp] theorem State.enter_choiceIndex (e : Context) : (s.enter e).choiceIndex = s.choiceIndex := rfl

/-! ### setWait -/

@[simp] theorem State.setWait_cfg (w : Option Word) : (s.setWait w).cfg = s.cfg := rfl
@[simp] theorem State.setWait_freqSel (w : Option Word) : (s.setWait w).freqSel = s.freqSel := rfl
@[simp] theorem State.setWait_tmr (w : Option Word) : (s.setWait w).tmr = s.tmr := rfl
@[simp] theorem State.setWait_tmrAt (w : Option Word) (c : Index) : (s.setWait w).tmrAt c = s.tmrAt c := rfl
@[simp] theorem State.setWait_ms (w : Option Word) : (s.setWait w).ms = s.ms := rfl
@[simp] theorem State.setWait_pwm (w : Option Word) : (s.setWait w).pwm = s.pwm := rfl
@[simp] theorem State.setWait_pwmAt (w : Option Word) (c : Index) : (s.setWait w).pwmAt c = s.pwmAt c := rfl
@[simp] theorem State.setWait_pin (w : Option Word) : (s.setWait w).pin = s.pin := rfl
@[simp] theorem State.setWait_pinAt (w : Option Word) (p i : Index) : (s.setWait w).pinAt p i = s.pinAt p i := rfl
@[simp] theorem State.setWait_port (w : Option Word) : (s.setWait w).port = s.port := rfl
@[simp] theorem State.setWait_portAt (w : Option Word) (p : Index) : (s.setWait w).portAt p = s.portAt p := rfl
@[simp] theorem State.setWait_lastError (w : Option Word) : (s.setWait w).lastError = s.lastError := rfl
@[simp] theorem State.setWait_fault (w : Option Word) : (s.setWait w).fault = s.fault := rfl
@[simp] theorem State.setWait_ctx (w : Option Word) : (s.setWait w).ctx = setTopWait w s.ctx := rfl
@[simp] theorem State.setWait_events (w : Option Word) : (s.setWait w).events = s.events := rfl
@[simp] theorem State.setWait_inbox (w : Option Word) : (s.setWait w).inbox = s.inbox := rfl
@[simp] theorem State.setWait_choiceIndex (w : Option Word) : (s.setWait w).choiceIndex = s.choiceIndex := rfl

/-! ### drive -/

@[simp] theorem State.drive_cfg (k m : Index) (l : PinLevel) : (s.drive k m l).cfg = s.cfg := rfl
@[simp] theorem State.drive_freqSel (k m : Index) (l : PinLevel) : (s.drive k m l).freqSel = s.freqSel := rfl
@[simp] theorem State.drive_tmr (k m : Index) (l : PinLevel) : (s.drive k m l).tmr = s.tmr := rfl
@[simp] theorem State.drive_tmrAt (k m : Index) (l : PinLevel) (c : Index) : (s.drive k m l).tmrAt c = s.tmrAt c := rfl
@[simp] theorem State.drive_ms (k m : Index) (l : PinLevel) : (s.drive k m l).ms = s.ms := rfl
@[simp] theorem State.drive_pwm (k m : Index) (l : PinLevel) : (s.drive k m l).pwm = s.pwm := rfl
@[simp] theorem State.drive_pwmAt (k m : Index) (l : PinLevel) (c : Index) : (s.drive k m l).pwmAt c = s.pwmAt c := rfl
@[simp] theorem State.drive_port (k m : Index) (l : PinLevel) : (s.drive k m l).port = s.port := rfl
@[simp] theorem State.drive_portAt (k m : Index) (l : PinLevel) (p : Index) : (s.drive k m l).portAt p = s.portAt p := rfl
@[simp] theorem State.drive_lastError (k m : Index) (l : PinLevel) : (s.drive k m l).lastError = s.lastError := rfl
@[simp] theorem State.drive_fault (k m : Index) (l : PinLevel) : (s.drive k m l).fault = s.fault := rfl
@[simp] theorem State.drive_ctx (k m : Index) (l : PinLevel) : (s.drive k m l).ctx = s.ctx := rfl
@[simp] theorem State.drive_events (k m : Index) (l : PinLevel) : (s.drive k m l).events = s.events ++ [.drive k m l] := rfl
@[simp] theorem State.drive_inbox (k m : Index) (l : PinLevel) : (s.drive k m l).inbox = s.inbox := rfl
@[simp] theorem State.drive_choiceIndex (k m : Index) (l : PinLevel) : (s.drive k m l).choiceIndex = s.choiceIndex := rfl

/-! ### invoke -/

@[simp] theorem State.invoke_cfg (src : CallbackSource) (h : HandlerId) (l : Level) : (s.invoke src h l).cfg = s.cfg := rfl
@[simp] theorem State.invoke_freqSel (src : CallbackSource) (h : HandlerId) (l : Level) : (s.invoke src h l).freqSel = s.freqSel := rfl
@[simp] theorem State.invoke_tmr (src : CallbackSource) (h : HandlerId) (l : Level) : (s.invoke src h l).tmr = s.tmr := rfl
@[simp] theorem State.invoke_tmrAt (src : CallbackSource) (h : HandlerId) (l : Level) (c : Index) : (s.invoke src h l).tmrAt c = s.tmrAt c := rfl
@[simp] theorem State.invoke_ms (src : CallbackSource) (h : HandlerId) (l : Level) : (s.invoke src h l).ms = s.ms := rfl
@[simp] theorem State.invoke_pwm (src : CallbackSource) (h : HandlerId) (l : Level) : (s.invoke src h l).pwm = s.pwm := rfl
@[simp] theorem State.invoke_pwmAt (src : CallbackSource) (h : HandlerId) (l : Level) (c : Index) : (s.invoke src h l).pwmAt c = s.pwmAt c := rfl
@[simp] theorem State.invoke_pin (src : CallbackSource) (h : HandlerId) (l : Level) : (s.invoke src h l).pin = s.pin := rfl
@[simp] theorem State.invoke_pinAt (src : CallbackSource) (h : HandlerId) (l : Level) (p i : Index) : (s.invoke src h l).pinAt p i = s.pinAt p i := rfl
@[simp] theorem State.invoke_port (src : CallbackSource) (h : HandlerId) (l : Level) : (s.invoke src h l).port = s.port := rfl
@[simp] theorem State.invoke_portAt (src : CallbackSource) (h : HandlerId) (l : Level) (p : Index) : (s.invoke src h l).portAt p = s.portAt p := rfl
@[simp] theorem State.invoke_lastError (src : CallbackSource) (h : HandlerId) (l : Level) : (s.invoke src h l).lastError = s.lastError := rfl
@[simp] theorem State.invoke_fault (src : CallbackSource) (h : HandlerId) (l : Level) : (s.invoke src h l).fault = s.fault := rfl
@[simp] theorem State.invoke_ctx (src : CallbackSource) (h : HandlerId) (l : Level) : (s.invoke src h l).ctx = .code src.kind l none :: s.ctx := rfl
@[simp] theorem State.invoke_events (src : CallbackSource) (h : HandlerId) (l : Level) : (s.invoke src h l).events = s.events ++ [.invoke src h] := rfl
@[simp] theorem State.invoke_inbox (src : CallbackSource) (h : HandlerId) (l : Level) : (s.invoke src h l).inbox = s.inbox := rfl
@[simp] theorem State.invoke_choiceIndex (src : CallbackSource) (h : HandlerId) (l : Level) : (s.invoke src h l).choiceIndex = s.choiceIndex := rfl

/-! ### zeroMillis -/

@[simp] theorem State.zeroMillis_cfg : s.zeroMillis.cfg = s.cfg := rfl
@[simp] theorem State.zeroMillis_freqSel : s.zeroMillis.freqSel = s.freqSel := rfl
@[simp] theorem State.zeroMillis_tmr : s.zeroMillis.tmr = s.tmr := rfl
@[simp] theorem State.zeroMillis_tmrAt  (c : Index) : s.zeroMillis.tmrAt c = s.tmrAt c := rfl
@[simp] theorem State.zeroMillis_pwm : s.zeroMillis.pwm = s.pwm := rfl
@[simp] theorem State.zeroMillis_pwmAt  (c : Index) : s.zeroMillis.pwmAt c = s.pwmAt c := rfl
@[simp] theorem State.zeroMillis_pin : s.zeroMillis.pin = s.pin := rfl
@[simp] theorem State.zeroMillis_pinAt  (p i : Index) : s.zeroMillis.pinAt p i = s.pinAt p i := rfl
@[simp] theorem State.zeroMillis_port : s.zeroMillis.port = s.port := rfl
@[simp] theorem State.zeroMillis_portAt  (p : Index) : s.zeroMillis.portAt p = s.portAt p := rfl
@[simp] theorem State.zeroMillis_lastError : s.zeroMillis.lastError = s.lastError := rfl
@[simp] theorem State.zeroMillis_fault : s.zeroMillis.fault = s.fault := rfl
@[simp] theorem State.zeroMillis_ctx : s.zeroMillis.ctx = s.ctx := rfl
@[simp] theorem State.zeroMillis_events : s.zeroMillis.events = s.events := rfl
@[simp] theorem State.zeroMillis_inbox : s.zeroMillis.inbox = s.inbox := rfl
@[simp] theorem State.zeroMillis_choiceIndex : s.zeroMillis.choiceIndex = s.choiceIndex := rfl

/-! ### flagPin -/

@[simp] theorem State.flagPin_cfg (k m : Index) : (s.flagPin k m).cfg = s.cfg := rfl
@[simp] theorem State.flagPin_freqSel (k m : Index) : (s.flagPin k m).freqSel = s.freqSel := rfl
@[simp] theorem State.flagPin_tmr (k m : Index) : (s.flagPin k m).tmr = s.tmr := rfl
@[simp] theorem State.flagPin_tmrAt (k m : Index) (c : Index) : (s.flagPin k m).tmrAt c = s.tmrAt c := rfl
@[simp] theorem State.flagPin_ms (k m : Index) : (s.flagPin k m).ms = s.ms := rfl
@[simp] theorem State.flagPin_pwm (k m : Index) : (s.flagPin k m).pwm = s.pwm := rfl
@[simp] theorem State.flagPin_pwmAt (k m : Index) (c : Index) : (s.flagPin k m).pwmAt c = s.pwmAt c := rfl
@[simp] theorem State.flagPin_lastError (k m : Index) : (s.flagPin k m).lastError = s.lastError := rfl
@[simp] theorem State.flagPin_fault (k m : Index) : (s.flagPin k m).fault = s.fault := rfl
@[simp] theorem State.flagPin_ctx (k m : Index) : (s.flagPin k m).ctx = s.ctx := rfl
@[simp] theorem State.flagPin_events (k m : Index) : (s.flagPin k m).events = s.events := rfl
@[simp] theorem State.flagPin_inbox (k m : Index) : (s.flagPin k m).inbox = s.inbox := rfl
@[simp] theorem State.flagPin_choiceIndex (k m : Index) : (s.flagPin k m).choiceIndex = s.choiceIndex := rfl

end Sys2Proof.Machine
end

