-- ==== Sys2Proof/Laws/Ops.lean ====
section
/-! SUPPORT. For each shared operation, one lemma that says what it does: banks, state access, operand forms, flags,
the search for a flagged pin. Later proofs cite these instead of unfolding. -/

namespace Sys2Proof.Machine

/-! ### Banks -/

theorem bankGet_bankSet {α : Type} (v : Vector α 16) (k c : Index) (x : α) :
    bankGet (bankSet v k x) c = if c = k then x else bankGet v c := by
  by_cases h : c = k
  · simp [bankGet, bankSet, h]
  · have : k.toNat ≠ c.toNat := fun e => h (BitVec.eq_of_toNat_eq e.symm)
    simp [bankGet, bankSet, h, this]

@[simp] theorem bankGet_bankSet_same {α : Type} (v : Vector α 16) (k : Index) (x : α) :
    bankGet (bankSet v k x) k = x := by simp [bankGet_bankSet]

@[simp] theorem bankGet_bankSet_other {α : Type} (v : Vector α 16) (k c : Index) (x : α) (h : c ≠ k) :
    bankGet (bankSet v k x) c = bankGet v c := by simp [bankGet_bankSet, h]

@[simp] theorem bankGet_bankMapBelow {α : Type} (n : Nat) (f : α → α) (v : Vector α 16) (c : Index) :
    bankGet (bankMapBelow n f v) c = if c.toNat < n then f (bankGet v c) else bankGet v c := by
  simp [bankGet, bankMapBelow]

@[simp] theorem bankGet_replicate {α : Type} (x : α) (c : Index) : bankGet (Vector.replicate 16 x) c = x := by
  simp [bankGet]

/-- Two banks with the same places are the same bank. -/
theorem bank_ext {α : Type} {v w : Vector α 16} (h : ∀ c, bankGet v c = bankGet w c) : v = w := by
  ext i hi
  have := h (BitVec.ofNat 4 i)
  simpa [bankGet, Nat.mod_eq_of_lt hi] using this

theorem mem_indices (c : Index) : c ∈ indices := by
  simp only [indices, List.mem_map, List.mem_range]
  exact ⟨c.toNat, c.isLt, by simp⟩

theorem any_indices (f : Index → Bool) : indices.any f = true ↔ ∃ c, f c = true := by
  simp [List.any_eq_true, mem_indices]

theorem any_indices_eq_false (f : Index → Bool) : indices.any f = false ↔ ∀ c, f c = false := by
  simp [List.any_eq_false, mem_indices]

theorem mem_allSources (src : Source) : src ∈ allSources := by
  cases src <;> simp [allSources, mem_indices]

/-! ### State access -/

theorem State.tmrAt_setTmr (s : State) (k c : Index) (x : TimerChannel) :
    (s.setTmr k x).tmrAt c = if c = k then x else s.tmrAt c := bankGet_bankSet ..

@[simp] theorem State.tmrAt_setTmr_same (s : State) (k : Index) (x : TimerChannel) : (s.setTmr k x).tmrAt k = x := by
  simp [State.tmrAt_setTmr]

@[simp] theorem State.tmrAt_setTmr_other (s : State) (k c : Index) (x : TimerChannel) (h : c ≠ k) :
    (s.setTmr k x).tmrAt c = s.tmrAt c := by simp [State.tmrAt_setTmr, h]

theorem State.pwmAt_setPwm (s : State) (k c : Index) (x : PwmChannel) :
    (s.setPwm k x).pwmAt c = if c = k then x else s.pwmAt c := bankGet_bankSet ..

@[simp] theorem State.pwmAt_setPwm_same (s : State) (k : Index) (x : PwmChannel) : (s.setPwm k x).pwmAt k = x := by
  simp [State.pwmAt_setPwm]

@[simp] theorem State.pwmAt_setPwm_other (s : State) (k c : Index) (x : PwmChannel) (h : c ≠ k) :
    (s.setPwm k x).pwmAt c = s.pwmAt c := by simp [State.pwmAt_setPwm, h]

theorem State.pinAt_setPin (s : State) (k m p i : Index) (x : Pin) :
    (s.setPin k m x).pinAt p i = if p = k ∧ i = m then x else s.pinAt p i := by
  simp only [State.pinAt, State.setPin, bankGet_bankSet]
  by_cases h : p = k <;> by_cases h' : i = m <;> simp [h, h']

@[simp] theorem State.pinAt_setPin_same (s : State) (k m : Index) (x : Pin) : (s.setPin k m x).pinAt k m = x := by
  simp [State.pinAt_setPin]

@[simp] theorem State.pinAt_setPin_other (s : State) (k m p i : Index) (x : Pin) (h : ¬(p = k ∧ i = m)) :
    (s.setPin k m x).pinAt p i = s.pinAt p i := by simp [State.pinAt_setPin, h]

theorem State.portAt_setPort (s : State) (k p : Index) (x : Port) :
    (s.setPort k x).portAt p = if p = k then x else s.portAt p := bankGet_bankSet ..

@[simp] theorem State.portAt_setPort_same (s : State) (k : Index) (x : Port) : (s.setPort k x).portAt k = x := by
  simp [State.portAt_setPort]

@[simp] theorem State.portAt_setPort_other (s : State) (k p : Index) (x : Port) (h : p ≠ k) :
    (s.setPort k x).portAt p = s.portAt p := by simp [State.portAt_setPort, h]

theorem State.pinAt_drive (s : State) (k m p i : Index) (l : PinLevel) :
    (s.drive k m l).pinAt p i = if p = k ∧ i = m then { s.pinAt k m with outLevel := some l } else s.pinAt p i :=
  State.pinAt_setPin ..

/-- Driving a pin keeps every edge mode. -/
theorem State.drive_edge (s : State) (k m : Index) (l : PinLevel) (p i : Index) :
    ((s.drive k m l).pinAt p i).edge = (s.pinAt p i).edge := by
  rw [State.pinAt_drive]
  split
  · next h => rw [h.1, h.2]
  · rfl

/-- Setting or clearing a change flag keeps every edge mode. -/
theorem State.setPin_changeFlag_edge (s : State) (k m : Index) (b : Bool) (p i : Index) :
    ((s.setPin k m { s.pinAt k m with changeFlag := b }).pinAt p i).edge = (s.pinAt p i).edge := by
  rw [State.pinAt_setPin]
  split
  · next h => rw [h.1, h.2]
  · rfl

theorem State.flagPin_edge (s : State) (k m p i : Index) : ((s.flagPin k m).pinAt p i).edge = (s.pinAt p i).edge :=
  s.setPin_changeFlag_edge k m true p i

/-- Writing a pin keeps every driven level where it keeps its own. -/
theorem State.setPin_outLevel (s : State) (k m : Index) (x : Pin) (hx : x.outLevel = (s.pinAt k m).outLevel) (p i : Index) :
    ((s.setPin k m x).pinAt p i).outLevel = (s.pinAt p i).outLevel := by
  rw [State.pinAt_setPin]
  split
  · next h => rw [h.1, h.2, hx]
  · rfl

/-- Setting or clearing a change flag keeps every driven level. -/
theorem State.setPin_changeFlag_outLevel (s : State) (k m : Index) (b : Bool) (p i : Index) :
    ((s.setPin k m { s.pinAt k m with changeFlag := b }).pinAt p i).outLevel = (s.pinAt p i).outLevel :=
  s.setPin_outLevel k m { s.pinAt k m with changeFlag := b } rfl p i

theorem State.flagPin_outLevel (s : State) (k m p i : Index) :
    ((s.flagPin k m).pinAt p i).outLevel = (s.pinAt p i).outLevel :=
  s.setPin_changeFlag_outLevel k m true p i

theorem State.tmrAt_tick (s : State) (c : Index) :
    (tick s).tmrAt c = if c.toNat < s.cfg.nTmr then tickTimer (s.tmrAt c) else s.tmrAt c := bankGet_bankMapBelow ..

theorem State.pwmAt_tick (s : State) (c : Index) :
    (tick s).pwmAt c = if c.toNat < s.cfg.nPwm then tickPwm (s.pwmAt c) else s.pwmAt c := bankGet_bankMapBelow ..

/-! ### Completion -/

/-- `finish` with OK logs the result and nothing else. -/
@[simp] theorem finish_ok (o : Opcode) (v : Word) (s : State) : finish o .ok v s = .next (s.okResult o v) := rfl

@[simp] theorem fail_configErr (o : Opcode) (s : State) :
    fail o .configErr s = .next (s.errResult o .configErr) := rfl

@[simp] theorem fail_conflictErr (o : Opcode) (s : State) :
    fail o .conflictErr s = .next (s.errResult o .conflictErr) := rfl

@[simp] theorem raiseFault_next (r : Fault) (s : State) : raiseFault r s = .next (s.faulted r) := rfl

/-! ### Operand forms -/

/-- R130: the lookup answers the table's entry. -/
theorem rate_eq {cfg : Config} {f : Word} {r : Rate} (u : TimeUnit) (h : cfg.rates[f.toNat]? = some r) :
    rate cfg f u = r.count u := by
  simp [rate, List.getD_eq_getElem?_getD, h]

theorem ticksFor_eq {cfg : Config} {f : Word} {r : Rate} (u : TimeUnit) (n : Word) (h : cfg.rates[f.toNat]? = some r) :
    ticksFor cfg f u n = n.toNat * (r.count u).toNat := by
  simp [ticksFor, rate_eq u h]

/-- R10: a mask 2^k has one bit set, of index k. -/
theorem popcount_shift : ∀ k : Fin 32, popcount (1#32 <<< k.val) = 1 := by decide

theorem maskIndex_shift : ∀ k : Fin 32, maskIndex (1#32 <<< k.val) = k.val := by decide

/-- R10: a mask with one bit set is 2^k for its index k. -/
theorem oneHot_of_popcount {m : Word} (h : popcount m = 1) : ∃ k < 32, m = 1#32 <<< k := by
  rw [popcount, List.countP_eq_length_filter, List.length_eq_one_iff] at h
  obtain ⟨k, hk⟩ := h
  have mem : ∀ j, (j < 32 ∧ m.getLsbD j = true) ↔ j = k := fun j => by
    have : j ∈ (List.range 32).filter (fun j => m.getLsbD j) ↔ j ∈ [k] := by rw [hk]
    simpa using this
  have hk32 := (mem k).2 rfl
  refine ⟨k, hk32.1, BitVec.eq_of_getLsbD_eq fun j hj => ?_⟩
  have := mem j
  by_cases e : j = k
  · subst e
    simp [hk32.2, hk32.1]
  · have hm : m.getLsbD j = false := by
      cases hb : m.getLsbD j
      · rfl
      · exact absurd ((mem j).1 ⟨hj, hb⟩) e
    simp only [hm, BitVec.getLsbD_shiftLeft, hj, decide_true, Bool.true_and]
    have : ¬ (j - k = 0 ∧ ¬ j < k) := by omega
    by_cases hlt : j < k
    · simp [hlt]
    · simp [hlt]
      omega

theorem popcount_eq_one_iff (m : Word) : popcount m = 1 ↔ ∃ k < 32, m = 1#32 <<< k :=
  ⟨oneHot_of_popcount, fun ⟨k, hk, e⟩ => e ▸ popcount_shift ⟨k, hk⟩⟩

theorem shift_ne_zero : ∀ k : Fin 32, 1#32 <<< k.val ≠ 0#32 := by decide

/-- R43: a claim, spelled out. -/
theorem PwmChannel.claims_iff (w : PwmChannel) (p : Index) (i : Nat) :
    w.claims p i = true ↔ w.pinMask ≠ 0 ∧ w.port = p ∧ maskIndex w.pinMask = i := by
  simp [PwmChannel.claims]

/-- R240: no existing PWM channel holds the pin. -/
theorem State.pwmHolds_iff (s : State) (p : Index) (i : Nat) :
    s.pwmHolds p i = true ↔ ∃ c : Index, c.toNat < s.cfg.nPwm ∧ (s.pwmAt c).claims p i = true := by
  rw [State.pwmHolds, any_indices]
  simp

/-- R202: a free pin is not bound and not held by another channel. -/
theorem State.pinFree_iff (s : State) (c p i : Index) :
    s.pinFree c p i = true ↔ (s.pinAt p i).edge = .none ∧
      ∀ c', c' ≠ c → c'.toNat < s.cfg.nPwm → (s.pwmAt c').claims p i.toNat = false := by
  rw [State.pinFree, Bool.and_eq_true, decide_eq_true_eq, Bool.not_eq_true', any_indices_eq_false]
  simp

/-- R132: some channel is configured. -/
theorem State.anyConfigured_iff (s : State) : s.anyConfigured = true ↔ s.Configured := by
  rw [State.anyConfigured, Bool.or_eq_true, any_indices, any_indices]
  simp [State.Configured]

/-- R211: the compare value never exceeds the period. -/
theorem dutyTicksOf_le {f : BitVec 17} (h : f.toNat ≤ 65536) (period : Nat) : dutyTicksOf f period ≤ period := by
  have : f.toNat * period ≤ 65536 * period := Nat.mul_le_mul_right _ h
  unfold dutyTicksOf
  omega

@[simp] theorem clampDuty_toNat (w : Word) : (clampDuty w).toNat = min w.toNat 65536 := by
  simp only [clampDuty, BitVec.toNat_ofNat]
  omega

/-! ### Flags -/

/-- R11: one more, or the largest value. -/
theorem satInc_eq (v : BitVec 32) : satInc v = saturatingSucc v := by
  have := v.isLt
  apply BitVec.eq_of_toNat_eq
  by_cases h : v.toNat + 1 ≤ 2 ^ 32 - 1
  · simp only [satInc, saturatingSucc, h, if_true, BitVec.toNat_ofNat, BitVec.toNat_add, Nat.min_eq_left]
    rfl
  · have e : v.toNat = 2 ^ 32 - 1 := by omega
    simp [satInc, saturatingSucc, e]

/-- R11: one more event after `n` of them. -/
theorem satInc_ofNat_min (n : Nat) :
    satInc (BitVec.ofNat 32 (min n (2 ^ 32 - 1))) = BitVec.ofNat 32 (min (n + 1) (2 ^ 32 - 1)) := by
  have key : ∀ m : Nat, min (min n m + 1) m = min (n + 1) m := fun m => by omega
  have h : (BitVec.ofNat 32 (min n (2 ^ 32 - 1))).toNat = min n (2 ^ 32 - 1) := by
    rw [BitVec.toNat_ofNat, Nat.mod_eq_of_lt (Nat.lt_of_le_of_lt (Nat.min_le_right _ _) (by decide))]
  rw [satInc, h, key]

/-- R312: a source that may be taken is eligible and of the highest level. -/
theorem State.takeable_iff (s : State) (src : Source) :
    s.takeable src = true ↔ s.eligible src = true ∧
      ∀ r, s.eligible r = true → (s.sourceLevel r).toNat ≤ (s.sourceLevel src).toNat := by
  rw [State.takeable, Bool.and_eq_true, List.all_eq_true]
  constructor
  · rintro ⟨h, h'⟩
    refine ⟨h, fun r hr => ?_⟩
    simpa [hr] using h' r (mem_allSources r)
  · rintro ⟨h, h'⟩
    refine ⟨h, fun r _ => ?_⟩
    cases hr : s.eligible r
    · simp
    · simpa using h' r hr

theorem State.eligible_iff (s : State) (src : Source) :
    s.eligible src = true ↔ sourceExists s.cfg src = true ∧ s.pending src = true ∧ s.unmasked src = true ∧
      s.currentLevel.toNat < (s.sourceLevel src).toNat := by
  simp [State.eligible, and_assoc]

/-! ### Dispatch -/

/-- R255: the search answers the least flagged pin at or after the cursor. -/
theorem State.nextFlagged_some (s : State) (p : Index) (k : Nat) (j : Index) :
    s.nextFlagged p k = some j ↔ k ≤ j.toNat ∧ j.toNat < s.cfg.nPin ∧ (s.pinAt p j).changeFlag = true ∧
      ∀ j' : Index, j'.toNat < j.toNat → k ≤ j'.toNat → j'.toNat < s.cfg.nPin → (s.pinAt p j').changeFlag = false := by
  have hrange : ∀ (f : Index → Bool), indices.find? f = ((List.range 16).find? fun n => f (BitVec.ofNat 4 n)).map
      (BitVec.ofNat 4) := fun f => by rw [indices, List.find?_map]; rfl
  simp only [State.nextFlagged, hrange, Option.map_eq_some_iff, List.find?_range_eq_some]
  constructor
  · rintro ⟨n, ⟨hf, hn, hmin⟩, rfl⟩
    have hn16 : n < 16 := by simpa using hn
    simp only [Bool.and_eq_true, decide_eq_true_eq] at hf
    refine ⟨hf.1.1, hf.1.2, hf.2, fun j' hj' hk hp => ?_⟩
    have hj : j'.toNat < n := by simpa [Nat.mod_eq_of_lt hn16] using hj'
    have := hmin j'.toNat hj
    simpa [hk, hp] using this
  · rintro ⟨h1, h2, h3, h4⟩
    refine ⟨j.toNat, ⟨by simp [h1, h2, h3], by simpa using j.isLt, fun n hn => ?_⟩, by simp⟩
    have hn16 : n < 16 := Nat.lt_trans hn j.isLt
    have e : (BitVec.ofNat 4 n).toNat = n := by simp [Nat.mod_eq_of_lt hn16]
    by_cases hk : k ≤ n ∧ n < s.cfg.nPin
    · have := h4 (BitVec.ofNat 4 n) (by rw [e]; exact hn) (by rw [e]; exact hk.1) (by rw [e]; exact hk.2)
      simp [this]
    · simp [e, hk]

/-- R255: no pin at or after the cursor is flagged. -/
theorem State.nextFlagged_none (s : State) (p : Index) (k : Nat) :
    s.nextFlagged p k = none ↔
      ∀ j : Index, k ≤ j.toNat → j.toNat < s.cfg.nPin → (s.pinAt p j).changeFlag = false := by
  simp only [State.nextFlagged, List.find?_eq_none, mem_indices, true_implies]
  constructor
  · intro h j hk hn
    simpa [hk, hn] using h j
  · intro h j
    by_cases hk : k ≤ j.toNat ∧ j.toNat < s.cfg.nPin
    · simp [h j hk.1 hk.2]
    · simp [hk]

end Sys2Proof.Machine
end

