-- ==== Sys2Proof/Laws/Commands.lean ====
section
/-! SUPPORT. What a command can do to each part of the state, once: if `exec i s` answers `next t`, then the parameters,
the stack, the millisecond clock, each timer channel, each PWM channel, each pin's edge mode and driven level, the
selected frequency and the log are as listed. Later proofs cite these instead of unfolding the nineteen meanings. -/

namespace Sys2Proof.Machine

variable {i : Instr} {s t : State}

/-- No command changes the parameters (R7). -/
theorem exec_cfg (h : exec i s = .next t) : t.cfg = s.cfg := by
  cases i <;>
    simp only [exec, execNop, execSetfreq, execGetfreq, execGetrate, execTcfg, execTstart, execTstop, execTsetiv,
      execTmiss, execMillis, execWait, execPcfg, execPduty, execPstart, execPstop, execPmiss, execBind, execSpur,
      execRderr, finish_ok, fail_configErr, fail_conflictErr, raiseFault_next] at h <;>
    repeat' split at h
  all_goals
    cases h
    rfl

/-- Only WAIT touches the context stack: it sets the top's wait (R190). -/
theorem exec_ctx (h : exec i s = .next t) : t.ctx = s.ctx ∨ ∃ d, i = .wait d ∧ t.ctx = setTopWait (some d) s.ctx := by
  cases i <;>
    simp only [exec, execNop, execSetfreq, execGetfreq, execGetrate, execTcfg, execTstart, execTstop, execTsetiv,
      execTmiss, execMillis, execWait, execPcfg, execPduty, execPstart, execPstop, execPmiss, execBind, execSpur,
      execRderr, finish_ok, fail_configErr, fail_conflictErr, raiseFault_next] at h <;>
    repeat' split at h
  all_goals
    cases h
    first
      | exact .inl rfl
      | exact .inr ⟨_, rfl, rfl⟩

/-- Only TSTART of stopped channel 0 and WAIT touch the millisecond clock (R154, R190). -/
theorem exec_ms (h : exec i s = .next t) :
    t.ms = s.ms ∨
    (i = .tstart 0 ∧ (s.tmrAt 0).enabled = false ∧ t.ms = { s.ms with millisCounter := 0, waitCounter := 0 }) ∨
    (∃ d, i = .wait d ∧ t.ms = { s.ms with waitCounter := 0, isWaiting := true }) := by
  cases i <;>
    simp only [exec, execNop, execSetfreq, execGetfreq, execGetrate, execTcfg, execTstart, execTstop, execTsetiv,
      execTmiss, execMillis, execWait, execPcfg, execPduty, execPstart, execPstop, execPmiss, execBind, execSpur,
      execRderr, finish_ok, fail_configErr, fail_conflictErr, raiseFault_next] at h <;>
    repeat' split at h
  all_goals
    cases h
    first
      | exact .inl rfl
      | exact .inr (.inr ⟨_, rfl, rfl⟩)
      | skip
  next h1 h2 =>
    subst h2
    exact .inr (.inl ⟨rfl, by simpa using h1, rfl⟩)

/-- Every command appends to the log, and no command begins a callback (R47). -/
theorem exec_events (h : exec i s = .next t) :
    ∃ new, t.events = s.events ++ new ∧ ∀ src hd, LogEvent.invoke src hd ∉ new := by
  cases i <;>
    simp only [exec, execNop, execSetfreq, execGetfreq, execGetrate, execTcfg, execTstart, execTstop, execTsetiv,
      execTmiss, execMillis, execWait, execPcfg, execPduty, execPstart, execPstop, execPmiss, execBind, execSpur,
      execRderr, finish_ok, fail_configErr, fail_conflictErr, raiseFault_next] at h <;>
    repeat' split at h
  all_goals
    cases h
    first
      | exact ⟨[], by rw [List.append_nil]; rfl, by simp⟩
      | exact ⟨[_], rfl, by simp⟩
      | exact ⟨[_, _], by simp [State.okResult]; exact ⟨rfl, rfl⟩, by simp⟩

/-- What a command does to a timer channel (R150–R155). -/
theorem exec_tmrAt {c : Index} (h : exec i s = .next t) :
    t.tmrAt c = s.tmrAt c ∨
    (i = .tstart c ∧ (s.tmrAt c).enabled = false ∧ (s.tmrAt c).periodTicks ≠ 0 ∧
      t.tmrAt c = { s.tmrAt c with counter := 0, softCounter := 0, missed := 0, IF := false, enabled := true }) ∨
    (∃ prio unit hd iv ps f, i = .tcfg c prio unit hd iv ps ∧ s.freqSel = some f ∧ t.freqSel = some f ∧
      (s.tmrAt c).enabled = false ∧ 1 ≤ ticksFor s.cfg f unit iv ∧ ticksFor s.cfg f unit iv ≤ maxCount s.cfg ∧
      ps ≠ 0 ∧ (c = 0 → unit = .ms ∧ iv = 1 ∧ ps = 1) ∧
      t.tmrAt c = { s.tmrAt c with
        periodTicks := ticksFor s.cfg f unit iv, softCountMax := ps, callback := hd, priority := prio, counter := 0 }) ∨
    (i = .tstop c ∧ t.tmrAt c = { s.tmrAt c with enabled := false, IF := false }) ∨
    (∃ ps, i = .tsetiv c ps ∧ c ≠ 0 ∧ ps ≠ 0 ∧ t.tmrAt c = { s.tmrAt c with softCountMax := ps }) := by
  cases i
  case tcfg ch prio unit hd iv ps =>
    simp only [exec, execTcfg, finish_ok, fail_configErr, raiseFault_next] at h
    repeat' split at h
    all_goals cases h
    all_goals first | exact .inl rfl | skip
    next _ f hf h1 h2 h3 h4 =>
      by_cases hc : c = ch
      · subst hc
        refine .inr (.inr (.inl ⟨prio, unit, hd, iv, ps, f, rfl, hf, hf, by simpa using h1, by omega, by omega, h3,
          fun h0 => ?_, State.tmrAt_setTmr_same _ _ _⟩))
        exact Classical.byContradiction fun hn => h4 ⟨h0, hn⟩
      · exact .inl (State.tmrAt_setTmr_other _ _ _ _ hc)
  case tstart ch =>
    simp only [exec, execTstart, finish_ok, fail_configErr] at h
    repeat' split at h
    all_goals cases h
    all_goals first | exact .inl rfl | skip
    all_goals
      next h1 h2 _ =>
        by_cases hc : c = ch
        · subst hc
          exact .inr (.inl ⟨rfl, by simpa using h2, fun hp => h1 (.inr hp), State.tmrAt_setTmr_same _ _ _⟩)
        · exact .inl (State.tmrAt_setTmr_other _ _ _ _ hc)
  case tstop ch =>
    simp only [exec, execTstop, finish_ok, fail_configErr] at h
    repeat' split at h
    all_goals cases h
    · exact .inl rfl
    · by_cases hc : c = ch
      · subst hc
        exact .inr (.inr (.inr (.inl ⟨rfl, State.tmrAt_setTmr_same _ _ _⟩)))
      · exact .inl (State.tmrAt_setTmr_other _ _ _ _ hc)
  case tsetiv ch ps =>
    simp only [exec, execTsetiv, finish_ok, fail_configErr] at h
    repeat' split at h
    all_goals cases h
    all_goals first | exact .inl rfl | skip
    next h1 h2 =>
      by_cases hc : c = ch
      · subst hc
        exact .inr (.inr (.inr (.inr ⟨ps, rfl, h1, h2, State.tmrAt_setTmr_same _ _ _⟩)))
      · exact .inl (State.tmrAt_setTmr_other _ _ _ _ hc)
  all_goals
    simp only [exec, execNop, execSetfreq, execGetfreq, execGetrate, execTmiss, execMillis, execWait, execPcfg,
      execPduty, execPstart, execPstop, execPmiss, execBind, execSpur, execRderr, finish_ok, fail_configErr,
      fail_conflictErr, raiseFault_next] at h
    repeat' split at h
  all_goals
    cases h
    exact .inl rfl

/-- What a command does to a PWM channel (R200–R210). -/
theorem exec_pwmAt {c : Index} (h : exec i s = .next t) :
    t.pwmAt c = s.pwmAt c ∨
    (∃ port prio unit per f k, i = .pcfg c port prio unit per (1#32 <<< k) ∧ k < 32 ∧ s.freqSel = some f ∧
      (s.pwmAt c).enabled = false ∧ port.toNat < s.cfg.nPort ∧ k < s.cfg.nPin ∧
      s.pinFree c port (BitVec.ofNat 4 k) = true ∧ t.pin = s.pin ∧ t.freqSel = s.freqSel ∧
      t.pwmAt c = { s.pwmAt c with
        port := port, pinMask := 1#32 <<< k, periodTicks := pwmPeriod s.cfg f unit per, priority := prio, counter := 0,
        dutyTicks := dutyTicksOf (s.pwmAt c).dutyFrac (pwmPeriod s.cfg f unit per) }) ∨
    (∃ d, i = .pduty c d ∧
      t.pwmAt c = { s.pwmAt c with
        dutyFrac := clampDuty d, dutyTicks := dutyTicksOf (clampDuty d) (s.pwmAt c).periodTicks }) ∨
    (i = .pstart c ∧ (s.pwmAt c).pinMask ≠ 0 ∧ (s.pwmAt c).enabled = false ∧
      t.pwmAt c = { s.pwmAt c with counter := 0, IFA := false, IFB := false, missed := 0, enabled := true }) ∨
    (i = .pstop c ∧ t.pwmAt c = { s.pwmAt c with enabled := false, IFA := false, IFB := false }) := by
  cases i
  case pcfg ch port prio unit per m =>
    simp only [exec, execPcfg, finish_ok, fail_configErr, fail_conflictErr, raiseFault_next] at h
    repeat' split at h
    all_goals cases h
    all_goals first | exact .inl rfl | skip
    next _ f hf h1 h2 h3 h4 =>
      by_cases hc : c = ch
      · subst hc
        obtain ⟨k, hk, rfl⟩ := oneHot_of_popcount (Classical.not_not.1 h2)
        have e : maskIndex (1#32 <<< k) = k := maskIndex_shift ⟨k, hk⟩
        rw [e] at h3 h4
        exact .inr (.inl ⟨port, prio, unit, per, f, k, rfl, hk, hf, by simpa using h1, by omega, by omega,
          Classical.not_not.1 h4, rfl, rfl, State.pwmAt_setPwm_same _ _ _⟩)
      · exact .inl (State.pwmAt_setPwm_other _ _ _ _ hc)
  case pduty ch d =>
    simp only [exec, execPduty, finish_ok, fail_configErr] at h
    repeat' split at h
    all_goals cases h
    · exact .inl rfl
    · by_cases hc : c = ch
      · subst hc
        exact .inr (.inr (.inl ⟨d, rfl, State.pwmAt_setPwm_same _ _ _⟩))
      · exact .inl (State.pwmAt_setPwm_other _ _ _ _ hc)
  case pstart ch =>
    simp only [exec, execPstart, finish_ok, fail_configErr] at h
    repeat' split at h
    all_goals cases h
    all_goals first | exact .inl rfl | skip
    next h1 h2 =>
      by_cases hc : c = ch
      · subst hc
        exact .inr (.inr (.inr (.inl ⟨rfl, fun hm => h1 (.inr hm), by simpa using h2,
          State.pwmAt_setPwm_same _ _ _⟩)))
      · exact .inl (State.pwmAt_setPwm_other _ _ _ _ hc)
  case pstop ch =>
    simp only [exec, execPstop, finish_ok, fail_configErr] at h
    repeat' split at h
    all_goals cases h
    · exact .inl rfl
    · by_cases hc : c = ch
      · subst hc
        exact .inr (.inr (.inr (.inr ⟨rfl, State.pwmAt_setPwm_same _ _ _⟩)))
      · exact .inl (State.pwmAt_setPwm_other _ _ _ _ hc)
  all_goals
    simp only [exec, execNop, execSetfreq, execGetfreq, execGetrate, execTcfg, execTstart, execTstop, execTsetiv,
      execTmiss, execMillis, execWait, execPmiss, execBind, execSpur, execRderr, finish_ok, fail_configErr,
      fail_conflictErr, raiseFault_next] at h
    repeat' split at h
  all_goals
    cases h
    exact .inl rfl

/-- Only BIND changes an edge mode, and only of a pin that no PWM channel holds (R240). -/
theorem exec_edge (h : exec i s = .next t) :
    (∀ p j, (t.pinAt p j).edge = (s.pinAt p j).edge) ∨
    ∃ p n e hd, i = .bind p n e hd ∧ s.pwmHolds p n.toNat = false ∧ t.pwm = s.pwm ∧
      ∀ p' j, ¬(p' = p ∧ j = n) → (t.pinAt p' j).edge = (s.pinAt p' j).edge := by
  cases i
  case pstart ch =>
    simp only [exec, execPstart, finish_ok, fail_configErr] at h
    repeat' split at h
    all_goals cases h
    · exact .inl fun _ _ => rfl
    · exact .inl fun _ _ => rfl
    · exact .inl fun p j => State.drive_edge _ _ _ _ p j
  case bind p n e hd =>
    simp only [exec, execBind, finish_ok, fail_configErr, fail_conflictErr] at h
    repeat' split at h
    all_goals cases h
    all_goals first | exact .inl fun _ _ => rfl | skip
    next hh =>
      refine .inr ⟨p, n, e, hd, rfl, by simpa using hh, rfl, fun p' j hc => ?_⟩
      exact congrArg Pin.edge (State.pinAt_setPin_other s p n p' j _ hc)
  all_goals
    simp only [exec, execNop, execSetfreq, execGetfreq, execGetrate, execTcfg, execTstart, execTstop, execTsetiv,
      execTmiss, execMillis, execWait, execPcfg, execPduty, execPstop, execPmiss, execSpur, execRderr, finish_ok,
      fail_configErr, fail_conflictErr, raiseFault_next] at h
    repeat' split at h
  all_goals
    cases h
    exact .inl fun _ _ => rfl

/-- Only PSTART of a stopped, configured channel drives a pin, and only that channel's own (R205). -/
theorem exec_outLevel (h : exec i s = .next t) :
    (∀ p j, (t.pinAt p j).outLevel = (s.pinAt p j).outLevel) ∨
    ∃ c, i = .pstart c ∧ c.toNat < s.cfg.nPwm ∧ (s.pwmAt c).pinMask ≠ 0 ∧ (s.pwmAt c).enabled = false ∧
      ∀ p j, ¬(p = (s.pwmAt c).port ∧ j = (s.pwmAt c).pinIndex) → (t.pinAt p j).outLevel = (s.pinAt p j).outLevel := by
  cases i
  case pstart ch =>
    simp only [exec, execPstart, finish_ok, fail_configErr] at h
    repeat' split at h
    all_goals cases h
    · exact .inl fun _ _ => rfl
    · exact .inl fun _ _ => rfl
    · next h1 h2 =>
        refine .inr ⟨ch, rfl, by omega, fun hm => h1 (.inr hm), by simpa using h2, fun p j hc => ?_⟩
        exact congrArg Pin.outLevel (State.pinAt_setPin_other _ _ _ p j _ hc)
  case bind p n e hd =>
    simp only [exec, execBind, finish_ok, fail_configErr, fail_conflictErr] at h
    repeat' split at h
    all_goals cases h
    all_goals first | exact .inl fun _ _ => rfl | skip
    exact .inl fun p' j => s.setPin_outLevel p n
      { s.pinAt p n with changeFlag := false, edge := decodeEdge e, handler := hd } rfl p' j
  all_goals
    simp only [exec, execNop, execSetfreq, execGetfreq, execGetrate, execTcfg, execTstart, execTstop, execTsetiv,
      execTmiss, execMillis, execWait, execPcfg, execPduty, execPstop, execPmiss, execSpur, execRderr, finish_ok,
      fail_configErr, fail_conflictErr, raiseFault_next] at h
    repeat' split at h
  all_goals
    cases h
    exact .inl fun _ _ => rfl

/-- Only SETFREQ changes the selected frequency, and only while nothing is configured (R132). -/
theorem exec_freqSel (h : exec i s = .next t) :
    t.freqSel = s.freqSel ∨
    ∃ sel, i = .setfreq sel ∧ sel.toNat < s.cfg.nFreq ∧ ¬s.Configured ∧
      t = { s with freqSel := some sel }.okResult .setfreq 0 := by
  cases i
  case setfreq sel =>
    simp only [exec, execSetfreq, finish_ok, fail_configErr, raiseFault_next] at h
    repeat' split at h
    all_goals cases h
    all_goals first | exact .inl rfl | skip
    next h1 _ h3 => exact .inr ⟨sel, rfl, by omega, fun hc => h3 ((State.anyConfigured_iff s).2 hc), rfl⟩
  all_goals
    simp only [exec, execNop, execGetfreq, execGetrate, execTcfg, execTstart, execTstop, execTsetiv, execTmiss,
      execMillis, execWait, execPcfg, execPduty, execPstart, execPstop, execPmiss, execBind, execSpur, execRderr,
      finish_ok, fail_configErr, fail_conflictErr, raiseFault_next] at h
    repeat' split at h
  all_goals
    cases h
    exact .inl rfl

end Sys2Proof.Machine
end

