-- ==== Sys2Proof/Laws/Step.lean ====
section
/-! SUPPORT. What a step can do, once: the inversion of `step`, the step that takes a given choice, what makes each
choice enabled, and what reading the next choice leaves unchanged. -/

namespace Sys2Proof.Machine

/-- A step that answers a next state ran its next choice, in a configuration the spec admits and without a fault. -/
theorem step_eq_next {s t : State} (h : step s = .next t) :
    s.Live ∧ runEvent s.nextChoice.1 s.nextChoice.2 = .next t := by
  unfold step advance at h
  split at h
  · next wf =>
    split at h
    · cases h
    · next nf => exact ⟨⟨wf, nf⟩, h⟩
  · cases h

/-- A live machine runs its next choice. -/
theorem step_live {s : State} (h : s.Live) : step s = runEvent s.nextChoice.1 s.nextChoice.2 := by
  unfold step advance
  rw [if_pos h.1]
  simp [h.2]

/-- The choice read is the given one, and nothing else changes. -/
theorem stepOn_live (e : Event) {s : State} (h : s.Live) : stepOn e s = runEvent e s :=
  step_live (s := { s with inbox := e :: s.inbox }) h

theorem stepOn_enabled {e : Event} {s : State} (h : s.Live) (he : s.enabled e = true) : stepOn e s = perform e s := by
  rw [stepOn_live e h, runEvent, if_pos he]

theorem runEvent_disabled {e : Event} {s : State} (he : s.enabled e = false) : runEvent e s = .next s := by
  rw [runEvent, if_neg (by simp [he])]

/-- Reading the next choice changes only the inbox and the count of choices read. -/
theorem nextChoice_frame (s : State) :
    s.nextChoice.2 = { s with inbox := s.nextChoice.2.inbox, choiceIndex := s.nextChoice.2.choiceIndex } := by
  unfold State.nextChoice
  split <;> rfl

@[simp] theorem nextChoice_cfg (s : State) : s.nextChoice.2.cfg = s.cfg := by rw [nextChoice_frame]
@[simp] theorem nextChoice_freqSel (s : State) : s.nextChoice.2.freqSel = s.freqSel := by rw [nextChoice_frame]
@[simp] theorem nextChoice_tmr (s : State) : s.nextChoice.2.tmr = s.tmr := by rw [nextChoice_frame]
@[simp] theorem nextChoice_ms (s : State) : s.nextChoice.2.ms = s.ms := by rw [nextChoice_frame]
@[simp] theorem nextChoice_pwm (s : State) : s.nextChoice.2.pwm = s.pwm := by rw [nextChoice_frame]
@[simp] theorem nextChoice_pin (s : State) : s.nextChoice.2.pin = s.pin := by rw [nextChoice_frame]
@[simp] theorem nextChoice_port (s : State) : s.nextChoice.2.port = s.port := by rw [nextChoice_frame]
@[simp] theorem nextChoice_lastError (s : State) : s.nextChoice.2.lastError = s.lastError := by rw [nextChoice_frame]
@[simp] theorem nextChoice_fault (s : State) : s.nextChoice.2.fault = s.fault := by rw [nextChoice_frame]
@[simp] theorem nextChoice_ctx (s : State) : s.nextChoice.2.ctx = s.ctx := by rw [nextChoice_frame]
@[simp] theorem nextChoice_events (s : State) : s.nextChoice.2.events = s.events := by rw [nextChoice_frame]
@[simp] theorem nextChoice_tmrAt (s : State) (c : Index) : s.nextChoice.2.tmrAt c = s.tmrAt c := by
  simp [State.tmrAt]
@[simp] theorem nextChoice_pwmAt (s : State) (c : Index) : s.nextChoice.2.pwmAt c = s.pwmAt c := by
  simp [State.pwmAt]
@[simp] theorem nextChoice_pinAt (s : State) (p i : Index) : s.nextChoice.2.pinAt p i = s.pinAt p i := by
  simp [State.pinAt]
@[simp] theorem nextChoice_portAt (s : State) (p : Index) : s.nextChoice.2.portAt p = s.portAt p := by
  simp [State.portAt]

/-! ### Enabling -/

theorem codeOnTop_iff (s : State) : s.codeOnTop = true ↔ ∃ k l rest, s.ctx = .code k l none :: rest := by
  unfold State.codeOnTop
  split
  · next k l rest h => simp [h]
  · next h => simp only [Bool.false_eq_true, false_iff]; rintro ⟨k, l, rest, e⟩; exact h _ _ _ e

theorem spinning_iff (s : State) (d : Word) : s.spinning = some d ↔ ∃ k l rest, s.ctx = .code k l (some d) :: rest := by
  unfold State.spinning
  split
  · next k l d' rest h => simp [h, eq_comm]
  · next h => simp only [reduceCtorEq, false_iff]; rintro ⟨k, l, rest, e⟩; exact h _ _ _ _ e

theorem canReturn_iff (s : State) : s.canReturn = true ↔
    (∃ c l rest, s.ctx = .code (.timerCB c) l none :: rest) ∨
    ∃ p i l rest, s.ctx = .code (.pinCB p i) l none :: rest := by
  unfold State.canReturn
  split
  · next c l rest h => simp [h]
  · next p i l rest h => simp [h]
  · next h1 h2 =>
    simp only [Bool.false_eq_true, false_iff, not_or]
    exact ⟨fun ⟨_, _, _, e⟩ => h1 _ _ _ e, fun ⟨_, _, _, _, e⟩ => h2 _ _ _ _ e⟩

/-- A completing command of a decoded instruction, or an illegal one. -/
theorem issue_cases (c : Command) (s : State) :
    (∃ i, decode c = .ok i ∧ issue c s = exec i s) ∨
    ((∀ i, decode c ≠ .ok i) ∧ issue c s = .next (s.complete .illegalCmd .illegal 0)) := by
  unfold issue
  cases h : decode c with
  | ok i => exact .inl ⟨i, rfl, rfl⟩
  | reservedOpcode _ => exact .inr ⟨fun _ e => (by cases e), rfl⟩
  | strayField _ => exact .inr ⟨fun _ e => (by cases e), rfl⟩
  | incomplete => exact .inr ⟨fun _ e => (by cases e), rfl⟩

end Sys2Proof.Machine
end

