-- ==== Sys2Proof/Laws/Autonomous.lean ====
section
/-! SUPPORT. What the autonomous steps and services do: the fields each leaves unchanged, what each writes, and the
inversion of an enabled step, so that later proofs unfold none of them. -/

namespace Sys2Proof.Machine

variable (s : State)

/-! ### tick (R160) -/

@[simp] theorem tick_cfg : (tick s).cfg = s.cfg := by simp only [tick]
@[simp] theorem tick_freqSel : (tick s).freqSel = s.freqSel := by simp only [tick]
@[simp] theorem tick_ms : (tick s).ms = s.ms := by simp only [tick]
@[simp] theorem tick_pin : (tick s).pin = s.pin := by simp only [tick]
@[simp] theorem tick_pinAt (p i : Index) : (tick s).pinAt p i = s.pinAt p i := by simp only [State.pinAt, tick_pin]
@[simp] theorem tick_port : (tick s).port = s.port := by simp only [tick]
@[simp] theorem tick_portAt (p : Index) : (tick s).portAt p = s.portAt p := by simp only [State.portAt, tick_port]
@[simp] theorem tick_lastError : (tick s).lastError = s.lastError := by simp only [tick]
@[simp] theorem tick_fault : (tick s).fault = s.fault := by simp only [tick]
@[simp] theorem tick_ctx : (tick s).ctx = s.ctx := by simp only [tick]
@[simp] theorem tick_events : (tick s).events = s.events := by simp only [tick]
@[simp] theorem tick_inbox : (tick s).inbox = s.inbox := by simp only [tick]
@[simp] theorem tick_choiceIndex : (tick s).choiceIndex = s.choiceIndex := by simp only [tick]

/-! ### timerService (R180) -/

@[simp] theorem timerService_cfg (k : Index) : (timerService k s).cfg = s.cfg := by
  simp only [timerService]; split_ifs <;> rfl
@[simp] theorem timerService_freqSel (k : Index) : (timerService k s).freqSel = s.freqSel := by
  simp only [timerService]; split_ifs <;> rfl
@[simp] theorem timerService_pwm (k : Index) : (timerService k s).pwm = s.pwm := by
  simp only [timerService]; split_ifs <;> rfl
@[simp] theorem timerService_pwmAt (k : Index) (c : Index) : (timerService k s).pwmAt c = s.pwmAt c := by simp only [State.pwmAt, timerService_pwm]
@[simp] theorem timerService_pin (k : Index) : (timerService k s).pin = s.pin := by
  simp only [timerService]; split_ifs <;> rfl
@[simp] theorem timerService_pinAt (k : Index) (p i : Index) : (timerService k s).pinAt p i = s.pinAt p i := by simp only [State.pinAt, timerService_pin]
@[simp] theorem timerService_port (k : Index) : (timerService k s).port = s.port := by
  simp only [timerService]; split_ifs <;> rfl
@[simp] theorem timerService_portAt (k : Index) (p : Index) : (timerService k s).portAt p = s.portAt p := by simp only [State.portAt, timerService_port]
@[simp] theorem timerService_lastError (k : Index) : (timerService k s).lastError = s.lastError := by
  simp only [timerService]; split_ifs <;> rfl
@[simp] theorem timerService_fault (k : Index) : (timerService k s).fault = s.fault := by
  simp only [timerService]; split_ifs <;> rfl
@[simp] theorem timerService_inbox (k : Index) : (timerService k s).inbox = s.inbox := by
  simp only [timerService]; split_ifs <;> rfl
@[simp] theorem timerService_choiceIndex (k : Index) : (timerService k s).choiceIndex = s.choiceIndex := by
  simp only [timerService]; split_ifs <;> rfl

/-! ### pwmServiceA (R216) -/

@[simp] theorem pwmServiceA_cfg (k : Index) : (pwmServiceA k s).cfg = s.cfg := rfl
@[simp] theorem pwmServiceA_freqSel (k : Index) : (pwmServiceA k s).freqSel = s.freqSel := rfl
@[simp] theorem pwmServiceA_tmr (k : Index) : (pwmServiceA k s).tmr = s.tmr := rfl
@[simp] theorem pwmServiceA_tmrAt (k : Index) (c : Index) : (pwmServiceA k s).tmrAt c = s.tmrAt c := rfl
@[simp] theorem pwmServiceA_ms (k : Index) : (pwmServiceA k s).ms = s.ms := rfl
@[simp] theorem pwmServiceA_port (k : Index) : (pwmServiceA k s).port = s.port := rfl
@[simp] theorem pwmServiceA_portAt (k : Index) (p : Index) : (pwmServiceA k s).portAt p = s.portAt p := rfl
@[simp] theorem pwmServiceA_lastError (k : Index) : (pwmServiceA k s).lastError = s.lastError := rfl
@[simp] theorem pwmServiceA_fault (k : Index) : (pwmServiceA k s).fault = s.fault := rfl
@[simp] theorem pwmServiceA_ctx (k : Index) : (pwmServiceA k s).ctx = s.ctx := rfl
@[simp] theorem pwmServiceA_inbox (k : Index) : (pwmServiceA k s).inbox = s.inbox := rfl
@[simp] theorem pwmServiceA_choiceIndex (k : Index) : (pwmServiceA k s).choiceIndex = s.choiceIndex := rfl

/-! ### pwmServiceB (R217) -/

@[simp] theorem pwmServiceB_cfg (k : Index) : (pwmServiceB k s).cfg = s.cfg := by
  simp only [pwmServiceB]; split_ifs <;> rfl
@[simp] theorem pwmServiceB_freqSel (k : Index) : (pwmServiceB k s).freqSel = s.freqSel := by
  simp only [pwmServiceB]; split_ifs <;> rfl
@[simp] theorem pwmServiceB_tmr (k : Index) : (pwmServiceB k s).tmr = s.tmr := by
  simp only [pwmServiceB]; split_ifs <;> rfl
@[simp] theorem pwmServiceB_tmrAt (k : Index) (c : Index) : (pwmServiceB k s).tmrAt c = s.tmrAt c := by simp only [State.tmrAt, pwmServiceB_tmr]
@[simp] theorem pwmServiceB_ms (k : Index) : (pwmServiceB k s).ms = s.ms := by
  simp only [pwmServiceB]; split_ifs <;> rfl
@[simp] theorem pwmServiceB_port (k : Index) : (pwmServiceB k s).port = s.port := by
  simp only [pwmServiceB]; split_ifs <;> rfl
@[simp] theorem pwmServiceB_portAt (k : Index) (p : Index) : (pwmServiceB k s).portAt p = s.portAt p := by simp only [State.portAt, pwmServiceB_port]
@[simp] theorem pwmServiceB_lastError (k : Index) : (pwmServiceB k s).lastError = s.lastError := by
  simp only [pwmServiceB]; split_ifs <;> rfl
@[simp] theorem pwmServiceB_fault (k : Index) : (pwmServiceB k s).fault = s.fault := by
  simp only [pwmServiceB]; split_ifs <;> rfl
@[simp] theorem pwmServiceB_ctx (k : Index) : (pwmServiceB k s).ctx = s.ctx := by
  simp only [pwmServiceB]; split_ifs <;> rfl
@[simp] theorem pwmServiceB_inbox (k : Index) : (pwmServiceB k s).inbox = s.inbox := by
  simp only [pwmServiceB]; split_ifs <;> rfl
@[simp] theorem pwmServiceB_choiceIndex (k : Index) : (pwmServiceB k s).choiceIndex = s.choiceIndex := by
  simp only [pwmServiceB]; split_ifs <;> rfl

/-! ### enterDispatch (R312) -/

@[simp] theorem enterDispatch_cfg (k : Index) : (s.enterDispatch k).cfg = s.cfg := rfl
@[simp] theorem enterDispatch_freqSel (k : Index) : (s.enterDispatch k).freqSel = s.freqSel := rfl
@[simp] theorem enterDispatch_tmr (k : Index) : (s.enterDispatch k).tmr = s.tmr := rfl
@[simp] theorem enterDispatch_tmrAt (k : Index) (c : Index) : (s.enterDispatch k).tmrAt c = s.tmrAt c := rfl
@[simp] theorem enterDispatch_ms (k : Index) : (s.enterDispatch k).ms = s.ms := rfl
@[simp] theorem enterDispatch_pwm (k : Index) : (s.enterDispatch k).pwm = s.pwm := rfl
@[simp] theorem enterDispatch_pwmAt (k : Index) (c : Index) : (s.enterDispatch k).pwmAt c = s.pwmAt c := rfl
@[simp] theorem enterDispatch_pin (k : Index) : (s.enterDispatch k).pin = s.pin := rfl
@[simp] theorem enterDispatch_pinAt (k : Index) (p i : Index) : (s.enterDispatch k).pinAt p i = s.pinAt p i := rfl
@[simp] theorem enterDispatch_port (k : Index) : (s.enterDispatch k).port = s.port := rfl
@[simp] theorem enterDispatch_portAt (k : Index) (p : Index) : (s.enterDispatch k).portAt p = s.portAt p := rfl
@[simp] theorem enterDispatch_lastError (k : Index) : (s.enterDispatch k).lastError = s.lastError := rfl
@[simp] theorem enterDispatch_fault (k : Index) : (s.enterDispatch k).fault = s.fault := rfl
@[simp] theorem enterDispatch_events (k : Index) : (s.enterDispatch k).events = s.events := rfl
@[simp] theorem enterDispatch_inbox (k : Index) : (s.enterDispatch k).inbox = s.inbox := rfl
@[simp] theorem enterDispatch_choiceIndex (k : Index) : (s.enterDispatch k).choiceIndex = s.choiceIndex := rfl

/-! ### dispatchPort (R255) -/

@[simp] theorem dispatchPort_cfg (k : Index) (l : Level) (n : Nat) (below : List Context) : (dispatchPort k l n below s).cfg = s.cfg := by
  unfold dispatchPort; split <;> [rfl; (split <;> rfl)]
@[simp] theorem dispatchPort_freqSel (k : Index) (l : Level) (n : Nat) (below : List Context) : (dispatchPort k l n below s).freqSel = s.freqSel := by
  unfold dispatchPort; split <;> [rfl; (split <;> rfl)]
@[simp] theorem dispatchPort_tmr (k : Index) (l : Level) (n : Nat) (below : List Context) : (dispatchPort k l n below s).tmr = s.tmr := by
  unfold dispatchPort; split <;> [rfl; (split <;> rfl)]
@[simp] theorem dispatchPort_tmrAt (k : Index) (l : Level) (n : Nat) (below : List Context) (c : Index) : (dispatchPort k l n below s).tmrAt c = s.tmrAt c := by simp only [State.tmrAt, dispatchPort_tmr]
@[simp] theorem dispatchPort_ms (k : Index) (l : Level) (n : Nat) (below : List Context) : (dispatchPort k l n below s).ms = s.ms := by
  unfold dispatchPort; split <;> [rfl; (split <;> rfl)]
@[simp] theorem dispatchPort_pwm (k : Index) (l : Level) (n : Nat) (below : List Context) : (dispatchPort k l n below s).pwm = s.pwm := by
  unfold dispatchPort; split <;> [rfl; (split <;> rfl)]
@[simp] theorem dispatchPort_pwmAt (k : Index) (l : Level) (n : Nat) (below : List Context) (c : Index) : (dispatchPort k l n below s).pwmAt c = s.pwmAt c := by simp only [State.pwmAt, dispatchPort_pwm]
@[simp] theorem dispatchPort_lastError (k : Index) (l : Level) (n : Nat) (below : List Context) : (dispatchPort k l n below s).lastError = s.lastError := by
  unfold dispatchPort; split <;> [rfl; (split <;> rfl)]
@[simp] theorem dispatchPort_fault (k : Index) (l : Level) (n : Nat) (below : List Context) : (dispatchPort k l n below s).fault = s.fault := by
  unfold dispatchPort; split <;> [rfl; (split <;> rfl)]
@[simp] theorem dispatchPort_inbox (k : Index) (l : Level) (n : Nat) (below : List Context) : (dispatchPort k l n below s).inbox = s.inbox := by
  unfold dispatchPort; split <;> [rfl; (split <;> rfl)]
@[simp] theorem dispatchPort_choiceIndex (k : Index) (l : Level) (n : Nat) (below : List Context) : (dispatchPort k l n below s).choiceIndex = s.choiceIndex := by
  unfold dispatchPort; split <;> [rfl; (split <;> rfl)]

/-! ### dispatchStep (R255) -/

@[simp] theorem dispatchStep_cfg : (dispatchStep s).cfg = s.cfg := by
  unfold dispatchStep; split <;> simp
@[simp] theorem dispatchStep_freqSel : (dispatchStep s).freqSel = s.freqSel := by
  unfold dispatchStep; split <;> simp
@[simp] theorem dispatchStep_tmr : (dispatchStep s).tmr = s.tmr := by
  unfold dispatchStep; split <;> simp
@[simp] theorem dispatchStep_tmrAt (c : Index) : (dispatchStep s).tmrAt c = s.tmrAt c := by simp only [State.tmrAt, dispatchStep_tmr]
@[simp] theorem dispatchStep_ms : (dispatchStep s).ms = s.ms := by
  unfold dispatchStep; split <;> simp
@[simp] theorem dispatchStep_pwm : (dispatchStep s).pwm = s.pwm := by
  unfold dispatchStep; split <;> simp
@[simp] theorem dispatchStep_pwmAt (c : Index) : (dispatchStep s).pwmAt c = s.pwmAt c := by simp only [State.pwmAt, dispatchStep_pwm]
@[simp] theorem dispatchStep_lastError : (dispatchStep s).lastError = s.lastError := by
  unfold dispatchStep; split <;> simp
@[simp] theorem dispatchStep_fault : (dispatchStep s).fault = s.fault := by
  unfold dispatchStep; split <;> simp
@[simp] theorem dispatchStep_inbox : (dispatchStep s).inbox = s.inbox := by
  unfold dispatchStep; split <;> simp
@[simp] theorem dispatchStep_choiceIndex : (dispatchStep s).choiceIndex = s.choiceIndex := by
  unfold dispatchStep; split <;> simp

/-! ### returnFromCallback (R320) -/

@[simp] theorem returnFromCallback_cfg : (s.returnFromCallback).cfg = s.cfg := by
  unfold State.returnFromCallback; split <;> rfl
@[simp] theorem returnFromCallback_freqSel : (s.returnFromCallback).freqSel = s.freqSel := by
  unfold State.returnFromCallback; split <;> rfl
@[simp] theorem returnFromCallback_tmr : (s.returnFromCallback).tmr = s.tmr := by
  unfold State.returnFromCallback; split <;> rfl
@[simp] theorem returnFromCallback_tmrAt (c : Index) : (s.returnFromCallback).tmrAt c = s.tmrAt c := by simp only [State.tmrAt, returnFromCallback_tmr]
@[simp] theorem returnFromCallback_ms : (s.returnFromCallback).ms = s.ms := by
  unfold State.returnFromCallback; split <;> rfl
@[simp] theorem returnFromCallback_pwm : (s.returnFromCallback).pwm = s.pwm := by
  unfold State.returnFromCallback; split <;> rfl
@[simp] theorem returnFromCallback_pwmAt (c : Index) : (s.returnFromCallback).pwmAt c = s.pwmAt c := by simp only [State.pwmAt, returnFromCallback_pwm]
@[simp] theorem returnFromCallback_port : (s.returnFromCallback).port = s.port := by
  unfold State.returnFromCallback; split <;> rfl
@[simp] theorem returnFromCallback_portAt (p : Index) : (s.returnFromCallback).portAt p = s.portAt p := by simp only [State.portAt, returnFromCallback_port]
@[simp] theorem returnFromCallback_lastError : (s.returnFromCallback).lastError = s.lastError := by
  unfold State.returnFromCallback; split <;> rfl
@[simp] theorem returnFromCallback_fault : (s.returnFromCallback).fault = s.fault := by
  unfold State.returnFromCallback; split <;> rfl
@[simp] theorem returnFromCallback_events : (s.returnFromCallback).events = s.events := by
  unfold State.returnFromCallback; split <;> rfl
@[simp] theorem returnFromCallback_inbox : (s.returnFromCallback).inbox = s.inbox := by
  unfold State.returnFromCallback; split <;> rfl
@[simp] theorem returnFromCallback_choiceIndex : (s.returnFromCallback).choiceIndex = s.choiceIndex := by
  unfold State.returnFromCallback; split <;> rfl

/-! ### spin (R192) -/

@[simp] theorem spin_cfg (d : Word) : (spin d s).cfg = s.cfg := by
  unfold spin; split <;> rfl
@[simp] theorem spin_freqSel (d : Word) : (spin d s).freqSel = s.freqSel := by
  unfold spin; split <;> rfl
@[simp] theorem spin_tmr (d : Word) : (spin d s).tmr = s.tmr := by
  unfold spin; split <;> rfl
@[simp] theorem spin_tmrAt (d : Word) (c : Index) : (spin d s).tmrAt c = s.tmrAt c := by simp only [State.tmrAt, spin_tmr]
@[simp] theorem spin_pwm (d : Word) : (spin d s).pwm = s.pwm := by
  unfold spin; split <;> rfl
@[simp] theorem spin_pwmAt (d : Word) (c : Index) : (spin d s).pwmAt c = s.pwmAt c := by simp only [State.pwmAt, spin_pwm]
@[simp] theorem spin_pin (d : Word) : (spin d s).pin = s.pin := by
  unfold spin; split <;> rfl
@[simp] theorem spin_pinAt (d : Word) (p i : Index) : (spin d s).pinAt p i = s.pinAt p i := by simp only [State.pinAt, spin_pin]
@[simp] theorem spin_port (d : Word) : (spin d s).port = s.port := by
  unfold spin; split <;> rfl
@[simp] theorem spin_portAt (d : Word) (p : Index) : (spin d s).portAt p = s.portAt p := by simp only [State.portAt, spin_port]
@[simp] theorem spin_lastError (d : Word) : (spin d s).lastError = s.lastError := by
  unfold spin; split <;> rfl
@[simp] theorem spin_fault (d : Word) : (spin d s).fault = s.fault := by
  unfold spin; split <;> rfl
@[simp] theorem spin_inbox (d : Word) : (spin d s).inbox = s.inbox := by
  unfold spin; split <;> rfl
@[simp] theorem spin_choiceIndex (d : Word) : (spin d s).choiceIndex = s.choiceIndex := by
  unfold spin; split <;> rfl

/-! ### pinEdge (R250) -/

@[simp] theorem pinEdge_cfg (k m : Index) (dir : EdgeDir) : (pinEdge k m dir s).cfg = s.cfg := by
  unfold pinEdge; split <;> rfl
@[simp] theorem pinEdge_freqSel (k m : Index) (dir : EdgeDir) : (pinEdge k m dir s).freqSel = s.freqSel := by
  unfold pinEdge; split <;> rfl
@[simp] theorem pinEdge_tmr (k m : Index) (dir : EdgeDir) : (pinEdge k m dir s).tmr = s.tmr := by
  unfold pinEdge; split <;> rfl
@[simp] theorem pinEdge_tmrAt (k m : Index) (dir : EdgeDir) (c : Index) : (pinEdge k m dir s).tmrAt c = s.tmrAt c := by simp only [State.tmrAt, pinEdge_tmr]
@[simp] theorem pinEdge_ms (k m : Index) (dir : EdgeDir) : (pinEdge k m dir s).ms = s.ms := by
  unfold pinEdge; split <;> rfl
@[simp] theorem pinEdge_pwm (k m : Index) (dir : EdgeDir) : (pinEdge k m dir s).pwm = s.pwm := by
  unfold pinEdge; split <;> rfl
@[simp] theorem pinEdge_pwmAt (k m : Index) (dir : EdgeDir) (c : Index) : (pinEdge k m dir s).pwmAt c = s.pwmAt c := by simp only [State.pwmAt, pinEdge_pwm]
@[simp] theorem pinEdge_lastError (k m : Index) (dir : EdgeDir) : (pinEdge k m dir s).lastError = s.lastError := by
  unfold pinEdge; split <;> rfl
@[simp] theorem pinEdge_fault (k m : Index) (dir : EdgeDir) : (pinEdge k m dir s).fault = s.fault := by
  unfold pinEdge; split <;> rfl
@[simp] theorem pinEdge_ctx (k m : Index) (dir : EdgeDir) : (pinEdge k m dir s).ctx = s.ctx := by
  unfold pinEdge; split <;> rfl
@[simp] theorem pinEdge_events (k m : Index) (dir : EdgeDir) : (pinEdge k m dir s).events = s.events := by
  unfold pinEdge; split <;> rfl
@[simp] theorem pinEdge_inbox (k m : Index) (dir : EdgeDir) : (pinEdge k m dir s).inbox = s.inbox := by
  unfold pinEdge; split <;> rfl
@[simp] theorem pinEdge_choiceIndex (k m : Index) (dir : EdgeDir) : (pinEdge k m dir s).choiceIndex = s.choiceIndex := by
  unfold pinEdge; split <;> rfl

/-! ### spuriousFlag (R251) -/

@[simp] theorem spuriousFlag_cfg (k m : Index) : (spuriousFlag k m s).cfg = s.cfg := rfl
@[simp] theorem spuriousFlag_freqSel (k m : Index) : (spuriousFlag k m s).freqSel = s.freqSel := rfl
@[simp] theorem spuriousFlag_tmr (k m : Index) : (spuriousFlag k m s).tmr = s.tmr := rfl
@[simp] theorem spuriousFlag_tmrAt (k m : Index) (c : Index) : (spuriousFlag k m s).tmrAt c = s.tmrAt c := rfl
@[simp] theorem spuriousFlag_ms (k m : Index) : (spuriousFlag k m s).ms = s.ms := rfl
@[simp] theorem spuriousFlag_pwm (k m : Index) : (spuriousFlag k m s).pwm = s.pwm := rfl
@[simp] theorem spuriousFlag_pwmAt (k m : Index) (c : Index) : (spuriousFlag k m s).pwmAt c = s.pwmAt c := rfl
@[simp] theorem spuriousFlag_lastError (k m : Index) : (spuriousFlag k m s).lastError = s.lastError := rfl
@[simp] theorem spuriousFlag_fault (k m : Index) : (spuriousFlag k m s).fault = s.fault := rfl
@[simp] theorem spuriousFlag_ctx (k m : Index) : (spuriousFlag k m s).ctx = s.ctx := rfl
@[simp] theorem spuriousFlag_events (k m : Index) : (spuriousFlag k m s).events = s.events := rfl
@[simp] theorem spuriousFlag_inbox (k m : Index) : (spuriousFlag k m s).inbox = s.inbox := rfl
@[simp] theorem spuriousFlag_choiceIndex (k m : Index) : (spuriousFlag k m s).choiceIndex = s.choiceIndex := rfl
variable {s}

/-! ### What each writes -/

/-- R180: the timer service serves its own channel only. -/
theorem tmrAt_timerService (k c : Index) :
    (timerService k s).tmrAt c = if c = k then (s.tmrAt k).served else s.tmrAt c := by
  simp only [timerService]
  split_ifs <;> simp_all <;> rfl

/-- R180, R184: the timer service counts the millisecond clock on channel 0 only. -/
theorem ms_timerService (k : Index) : (timerService k s).ms = if k = 0 then s.ms.served else s.ms := by
  simp only [timerService]
  split_ifs <;> rfl

/-- R181, R318: the timer service pushes the callback's context and logs it, exactly when it fires with a handler. -/
theorem timerService_callback (k : Index) :
    (((s.tmrAt k).fires = true ∧ (s.tmrAt k).callback ≠ 0) ∧
      (timerService k s).ctx = .code (.timerCB k) (s.tmrAt k).priority none :: s.ctx ∧
      (timerService k s).events = s.events ++ [.invoke (.tmr k) (s.tmrAt k).callback]) ∨
    (¬((s.tmrAt k).fires = true ∧ (s.tmrAt k).callback ≠ 0) ∧
      (timerService k s).ctx = s.ctx ∧ (timerService k s).events = s.events) := by
  by_cases h : (s.tmrAt k).fires = true ∧ (s.tmrAt k).callback ≠ 0
  · refine .inl ⟨h, ?_⟩
    simp only [timerService, if_pos h]
    split_ifs <;> exact ⟨rfl, rfl⟩
  · refine .inr ⟨h, ?_⟩
    simp only [timerService, if_neg h]
    split_ifs <;> exact ⟨rfl, rfl⟩

/-- R216: service A clears event A of its own channel only. -/
theorem pwmAt_pwmServiceA (k c : Index) :
    (pwmServiceA k s).pwmAt c = if c = k then { s.pwmAt k with IFA := false } else s.pwmAt c := State.pwmAt_setPwm ..

/-- R216: service A drives the level of time 0 onto the channel's pin. -/
theorem pinAt_pwmServiceA (k p i : Index) :
    (pwmServiceA k s).pinAt p i =
      if p = (s.pwmAt k).port ∧ i = (s.pwmAt k).pinIndex then
        { s.pinAt (s.pwmAt k).port (s.pwmAt k).pinIndex with outLevel := some (s.pwmAt k).startLevel }
      else s.pinAt p i := State.pinAt_drive ..

/-- R217: service B clears event B of its own channel only. -/
theorem pwmAt_pwmServiceB (k c : Index) :
    (pwmServiceB k s).pwmAt c = if c = k then { s.pwmAt k with IFB := false } else s.pwmAt c := by
  simp only [pwmServiceB]
  split
  · exact State.pwmAt_setPwm ..
  · exact State.pwmAt_setPwm ..

/-- R217: service B drives the channel's pin low unless the channel is all-high. -/
theorem pinAt_pwmServiceB (k p i : Index) :
    (pwmServiceB k s).pinAt p i =
      if (s.pwmAt k).dutyTicks < (s.pwmAt k).periodTicks ∧ p = (s.pwmAt k).port ∧ i = (s.pwmAt k).pinIndex then
        { s.pinAt (s.pwmAt k).port (s.pwmAt k).pinIndex with outLevel := some .low }
      else s.pinAt p i := by
  simp only [pwmServiceB]
  split
  · next h => rw [State.pinAt_drive]; simp [h]
  · next h => simp [h]

/-- Services A and B keep every edge mode. -/
theorem pwmServiceA_edge (k p i : Index) : ((pwmServiceA k s).pinAt p i).edge = (s.pinAt p i).edge := by
  rw [pinAt_pwmServiceA]
  split
  · next h => rw [h.1, h.2]
  · rfl

theorem pwmServiceB_edge (k p i : Index) : ((pwmServiceB k s).pinAt p i).edge = (s.pinAt p i).edge := by
  rw [pinAt_pwmServiceB]
  split
  · next h => rw [h.2.1, h.2.2]
  · rfl

theorem dispatchStep_edge (p i : Index) : ((dispatchStep s).pinAt p i).edge = (s.pinAt p i).edge := by
  unfold dispatchStep dispatchPort
  split
  · split
    · rfl
    · split
      · rfl
      · exact State.setPin_changeFlag_edge ..
  · rfl

theorem returnFromCallback_edge (p i : Index) : (s.returnFromCallback.pinAt p i).edge = (s.pinAt p i).edge := by
  unfold State.returnFromCallback
  split
  · rfl
  · exact State.setPin_changeFlag_edge ..
  · rfl

theorem pinEdge_edge (k m : Index) (dir : EdgeDir) (p i : Index) :
    ((pinEdge k m dir s).pinAt p i).edge = (s.pinAt p i).edge := by
  unfold pinEdge
  split
  · exact State.flagPin_edge ..
  · rfl

/-- The dispatch, a Return and the pin environment drive no pin (R216, R217, R205 do). -/
theorem dispatchStep_outLevel (p i : Index) : ((dispatchStep s).pinAt p i).outLevel = (s.pinAt p i).outLevel := by
  unfold dispatchStep dispatchPort
  split
  · split
    · rfl
    · split
      · rfl
      · exact s.setPin_changeFlag_outLevel _ _ false p i
  · rfl

theorem returnFromCallback_outLevel (p i : Index) :
    (s.returnFromCallback.pinAt p i).outLevel = (s.pinAt p i).outLevel := by
  unfold State.returnFromCallback
  split
  · rfl
  · exact s.setPin_changeFlag_outLevel _ _ false p i
  · rfl

theorem pinEdge_outLevel (k m : Index) (dir : EdgeDir) (p i : Index) :
    ((pinEdge k m dir s).pinAt p i).outLevel = (s.pinAt p i).outLevel := by
  unfold pinEdge
  split
  · exact State.flagPin_outLevel ..
  · rfl

/-- R215: a count of a PWM channel writes its counter, its two flags and its missed counter, nothing else. -/
theorem pwmCount_eq (w : PwmChannel) :
    ∃ a b m, pwmCount w = { w with counter := w.nextCount, IFA := a, IFB := b, missed := m } := by
  simp only [pwmCount, eventA, eventB]
  split_ifs <;> exact ⟨_, _, _, rfl⟩

/-- R215, R40: in the cycle's order: no event, event A, or event B. -/
theorem pwmCount_cases (w : PwmChannel) :
    (w.nextCount = 0 ∧ pwmCount w = eventA { w with counter := 0 }) ∨
    (w.nextCount ≠ 0 ∧ w.mode = .normal ∧ w.nextCount = w.dutyTicks ∧
      pwmCount w = eventB { w with counter := w.nextCount }) ∨
    (w.nextCount ≠ 0 ∧ ¬(w.mode = .normal ∧ w.nextCount = w.dutyTicks) ∧
      pwmCount w = { w with counter := w.nextCount }) := by
  have hm : w.mode = .normal → w.dutyTicks ≠ 0 := by
    unfold PwmChannel.mode
    split_ifs <;> simp_all
  by_cases h0 : w.nextCount = 0
  · refine .inl ⟨h0, ?_⟩
    have : ¬(w.mode = .normal ∧ 0 = w.dutyTicks) := fun h => hm h.1 h.2.symm
    simp only [pwmCount, h0, if_true, if_neg this]
  · by_cases h1 : w.mode = .normal ∧ w.nextCount = w.dutyTicks
    · exact .inr (.inl ⟨h0, h1.1, h1.2, by simp only [pwmCount, if_neg h0, if_pos h1]⟩)
    · exact .inr (.inr ⟨h0, h1, by simp only [pwmCount, if_neg h0, if_neg h1]⟩)

/-- R40: Normal mode, spelled out. -/
theorem PwmChannel.mode_eq_normal (w : PwmChannel) :
    w.mode = .normal ↔ w.dutyTicks ≠ 0 ∧ ¬(w.dutyTicks = w.periodTicks ∧ w.periodTicks ≥ 1) := by
  unfold PwmChannel.mode
  split_ifs <;> simp_all

/-- R160: a Tick changes a timer channel's counter, flag and missed counter only. -/
theorem tickTimer_eq (u : TimerChannel) :
    ∃ n a m, tickTimer u = { u with counter := n, IF := a, missed := m } ∧ (u.enabled = false → tickTimer u = u) := by
  unfold tickTimer periodEvent
  split_ifs <;> exact ⟨_, _, _, rfl, by simp_all⟩

/-- R160: a Tick changes a PWM channel's counter, flags and missed counter only. -/
theorem tickPwm_eq (w : PwmChannel) :
    ∃ n a b m, tickPwm w = { w with counter := n, IFA := a, IFB := b, missed := m } ∧
      (w.enabled = false → tickPwm w = w) := by
  unfold tickPwm
  split
  · next h =>
    obtain ⟨a, b, m, e⟩ := pwmCount_eq w
    exact ⟨_, a, b, m, e, by simp_all⟩
  · exact ⟨_, _, _, _, rfl, fun _ => rfl⟩

/-! ### Inversion of a step -/

/-- A choice that ran either was not enabled and passed over (assumption 4), or was enabled and performed. -/
theorem runEvent_cases {e : Event} {t : State} (h : runEvent e s = .next t) :
    (s.enabled e = false ∧ t = s) ∨ (s.enabled e = true ∧ perform e s = .next t) := by
  unfold runEvent at h
  split at h
  · next he => exact .inr ⟨he, h⟩
  · next he => cases h; exact .inl ⟨by simpa using he, rfl⟩

/-- Reading the next choice changes nothing that enables a step. -/
@[simp] theorem enabled_nextChoice (e : Event) : s.nextChoice.2.enabled e = s.enabled e := by
  rw [nextChoice_frame]
  cases e <;> rfl

/-- R312: Take is enabled where the source may be taken. -/
@[simp] theorem enabled_take (src : Source) : s.enabled (.take src) = s.takeable src := rfl

/-- Everything an enabled step does: it runs a decoded command, completes an illegal one, or is one of the autonomous
steps, each named once. -/
theorem perform_cases {e : Event} {t : State} (h : perform e s = .next t) :
    (∃ w0 w1 w2 i, e = .issue w0 w1 w2 ∧ decode ⟨w0, w1, w2⟩ = .ok i ∧ exec i s = .next t) ∨
    (∃ w0 w1 w2, e = .issue w0 w1 w2 ∧ (∀ i, decode ⟨w0, w1, w2⟩ ≠ .ok i) ∧ t = s.complete .illegalCmd .illegal 0) ∨
    (e = .tick ∧ t = tick s) ∨
    (∃ c, e = .take (.tmr c) ∧ t = timerService c s) ∨
    (∃ c, e = .take (.pwmA c) ∧ t = pwmServiceA c s) ∨
    (∃ c, e = .take (.pwmB c) ∧ t = pwmServiceB c s) ∨
    (∃ p, e = .take (.pcn p) ∧ t = s.enterDispatch p) ∨
    (e = .dispatchStep ∧ t = dispatchStep s) ∨
    (e = .ret ∧ t = s.returnFromCallback) ∨
    (e = .spin ∧ t = spin (s.spinning.getD 0) s) ∨
    (∃ p i dir, e = .pinEdge p i dir ∧ t = pinEdge p i dir s) ∨
    (∃ p i, e = .spuriousFlag p i ∧ t = spuriousFlag p i s) := by
  cases e with
  | issue w0 w1 w2 =>
    rcases issue_cases ⟨w0, w1, w2⟩ s with ⟨i, hi, h'⟩ | ⟨hn, h'⟩
    · exact .inl ⟨w0, w1, w2, i, rfl, hi, h'.symm.trans h⟩
    · exact .inr (.inl ⟨w0, w1, w2, rfl, hn, (Host.Outcome.next.inj (h'.symm.trans h)).symm⟩)
  | take src => cases src <;> simp [perform, service] at h <;> simp [h]
  | tick => simp [perform] at h; simp [h]
  | dispatchStep => simp [perform] at h; simp [h]
  | ret => simp [perform] at h; simp [h]
  | spin => simp [perform] at h; simp [h]
  | pinEdge p i dir => simp [perform] at h; simp [h]
  | spuriousFlag p i => simp [perform] at h; simp [h]

/-- A run over a state whose inbox starts with an enabled choice performs it first. -/
theorem run_inbox_cons {e : Event} {rest : List Event} {n : Nat} {t : State} (hl : s.Live) (he : s.enabled e = true)
    (hp : perform e { s with inbox := rest } = .next t) :
    Sys2Proof.core.run (n + 1) { s with inbox := e :: rest } = Sys2Proof.core.run n t := by
  have he' : State.enabled { s with inbox := rest } e = true := by
    rw [← he]
    cases e <;> rfl
  have hs : Sys2Proof.core.step { s with inbox := e :: rest } = .next t := by
    show step _ = _
    rw [step_live (s := { s with inbox := e :: rest }) hl]
    show runEvent e { s with inbox := rest } = _
    rw [runEvent, if_pos he']
    exact hp
  simp only [Host.Core.run, hs]

end Sys2Proof.Machine
end

