-- ==== Sys2Proof/Laws/Decode.lean ====
section
/-! SUPPORT. The fields of W0 and its value determine each other (spec/30_encoding.md R101: the fields cover all 32 bits),
and the opcode map has one code per row. -/

namespace Sys2Proof

/-- R101: reading the fields of a word written from a header gives the header. -/
theorem Header.ofWord_toWord (h : Header) : Header.ofWord h.toWord = h := by
  cases h
  simp only [Header.ofWord, Header.toWord, Header.mk.injEq]
  refine ⟨?_, ?_, ?_, ?_, ?_, ?_, ?_, ?_⟩ <;>
  · ext i hi
    simp only [BitVec.getElem_extractLsb', BitVec.getLsbD_append]
    repeat (first | rw [if_pos (by omega)] | rw [if_neg (by omega)])
    rw [← BitVec.getLsbD_eq_getElem]
    congr 1
    omega

/-- R101: the fields cover all 32 bits of W0. -/
theorem Header.toWord_ofWord (w : Word) : (Header.ofWord w).toWord = w := by
  apply BitVec.eq_of_getLsbD_eq
  intro i hi
  simp only [Header.ofWord, Header.toWord, BitVec.getLsbD_append, BitVec.getLsbD_extractLsb']
  repeat' split
  all_goals
    first
    | omega
    | rw [decide_eq_true (by omega), Bool.true_and]
      congr 1
      omega

theorem Header.ofWord_injective {v w : Word} (h : Header.ofWord v = Header.ofWord w) : v = w := by
  rw [← Header.toWord_ofWord v, ← Header.toWord_ofWord w, h]

@[simp] theorem Opcode.ofCode_code (o : Opcode) : Opcode.ofCode o.code = some o := by cases o <;> rfl

theorem Opcode.code_of_ofCode {op : BitVec 6} {o : Opcode} (h : Opcode.ofCode op = some o) : op = o.code := by
  have key : ∀ n : Fin 64, ∀ o, Opcode.ofCode (BitVec.ofFin n) = some o → BitVec.ofFin n = o.code := by
    intro n o h
    revert h
    revert o n
    decide
  exact key op.toFin o h

/-- R103–R106: decoding of a word given by its header fields. -/
theorem decode_toWord (h : Header) (w1 w2 : Word) :
    decode ⟨h.toWord, w1, w2⟩ =
      match Opcode.ofCode h.op with
      | none => .reservedOpcode h.op
      | some o => if h.strayFree o.fields then .ok (o.build h w1 w2) else .strayField o := by
  simp only [decode, Header.ofWord_toWord] <;> rfl

/-- R103, R105: words that decode to a command hold its row's OP, no stray field, and the row's field values. -/
theorem decode_eq_ok {c : Command} {i : Instr} (h : decode c = .ok i) :
    ∃ o, Opcode.ofCode (Header.ofWord c.w0).op = some o ∧ (Header.ofWord c.w0).strayFree o.fields = true ∧
      i = o.build (Header.ofWord c.w0) c.w1 c.w2 := by
  unfold decode at h
  split at h
  · cases h
  · next o ho =>
    split at h
    · next hs => exact ⟨o, ho, hs, by cases h; rfl⟩
    · cases h

/-- R103: the command a row builds is of that row. -/
@[simp] theorem Opcode.opcode_build (o : Opcode) (h : Header) (w1 w2 : Word) : (o.build h w1 w2).opcode = o := by
  cases o <;> rfl

@[simp] theorem TimeUnit.ofBit_toBit (u : TimeUnit) : TimeUnit.ofBit u.toBit = u := by cases u <;> rfl

theorem TimeUnit.toBit_ofBit : ∀ b : BitVec 1, (TimeUnit.ofBit b).toBit = b := by decide

/-- R81: the bytes of a word give the word back. -/
theorem wordOfBytes_wordBytes (w : Word) :
    wordOfBytes (w.extractLsb' 0 8) (w.extractLsb' 8 8) (w.extractLsb' 16 8) (w.extractLsb' 24 8) = w := by
  apply BitVec.eq_of_getLsbD_eq
  intro i hi
  simp only [wordOfBytes, BitVec.getLsbD_append, BitVec.getLsbD_extractLsb']
  repeat' split
  all_goals
    first
    | omega
    | rw [decide_eq_true (by omega), Bool.true_and]
      congr 1
      omega

end Sys2Proof
end

