-- ==== Sys2Proof/Laws/PerInstr.lean ====
section
/-! SUPPORT. The per-instruction family RowOf: the header of a command names its row of R103, sets no field the row does
not use (R105), and the row builds the command back from the header and the operand words. -/

namespace Sys2Proof

/-- The command's header and operand words are those of its own row, and give the command back. -/
def Laws.RowOf.Statement (i : Instr) : Prop :=
  Opcode.ofCode i.header.op = some i.opcode ∧ i.header.strayFree i.opcode.fields = true ∧
    i.opcode.build i.header i.w1 i.w2 = i

theorem Laws.RowOf.nop : Laws.RowOf.Statement .nop := ⟨rfl, rfl, rfl⟩

theorem Laws.RowOf.setfreq (sel : Word) : Laws.RowOf.Statement (.setfreq sel) := ⟨rfl, rfl, rfl⟩

theorem Laws.RowOf.getfreq : Laws.RowOf.Statement .getfreq := ⟨rfl, rfl, rfl⟩

theorem Laws.RowOf.getrate (unit : TimeUnit) : Laws.RowOf.Statement (.getrate unit) := by
  cases unit <;> exact ⟨rfl, rfl, rfl⟩

theorem Laws.RowOf.tcfg (ch : Index) (prio : Level) (unit : TimeUnit) (handler : HandlerId) (iv ps : Word) : Laws.RowOf.Statement (.tcfg ch prio unit handler iv ps) := by
  cases unit <;> exact ⟨rfl, rfl, rfl⟩

theorem Laws.RowOf.tstart (ch : Index) : Laws.RowOf.Statement (.tstart ch) := ⟨rfl, rfl, rfl⟩

theorem Laws.RowOf.tstop (ch : Index) : Laws.RowOf.Statement (.tstop ch) := ⟨rfl, rfl, rfl⟩

theorem Laws.RowOf.tsetiv (ch : Index) (ps : Word) : Laws.RowOf.Statement (.tsetiv ch ps) := ⟨rfl, rfl, rfl⟩

theorem Laws.RowOf.tmiss (ch : Index) : Laws.RowOf.Statement (.tmiss ch) := ⟨rfl, rfl, rfl⟩

theorem Laws.RowOf.millis : Laws.RowOf.Statement .millis := ⟨rfl, rfl, rfl⟩

theorem Laws.RowOf.wait (d : Word) : Laws.RowOf.Statement (.wait d) := ⟨rfl, rfl, rfl⟩

theorem Laws.RowOf.pcfg (ch port : Index) (prio : Level) (unit : TimeUnit) (per mask : Word) : Laws.RowOf.Statement (.pcfg ch port prio unit per mask) := by
  cases unit <;> exact ⟨rfl, rfl, rfl⟩

theorem Laws.RowOf.pduty (ch : Index) (duty : Word) : Laws.RowOf.Statement (.pduty ch duty) := ⟨rfl, rfl, rfl⟩

theorem Laws.RowOf.pstart (ch : Index) : Laws.RowOf.Statement (.pstart ch) := ⟨rfl, rfl, rfl⟩

theorem Laws.RowOf.pstop (ch : Index) : Laws.RowOf.Statement (.pstop ch) := ⟨rfl, rfl, rfl⟩

theorem Laws.RowOf.pmiss (ch : Index) : Laws.RowOf.Statement (.pmiss ch) := ⟨rfl, rfl, rfl⟩

theorem Laws.RowOf.bind (port pin : Index) (edge : BitVec 2) (handler : HandlerId) : Laws.RowOf.Statement (.bind port pin edge handler) := ⟨rfl, rfl, rfl⟩

theorem Laws.RowOf.spur (port : Index) : Laws.RowOf.Statement (.spur port) := ⟨rfl, rfl, rfl⟩

theorem Laws.RowOf.rderr : Laws.RowOf.Statement .rderr := ⟨rfl, rfl, rfl⟩

end Sys2Proof
end

