-- ==== Sys2Proof/Laws/Runs.lean ====
section
/-! SUPPORT. Runs: a run that ends successfully, step by step (R304); a WAIT in progress keeps its context and all entries beneath it until its completing Spin (R192), so in
a fair run (R361) every WAIT whose completing Spin is enabled in infinitely many states completes. -/

namespace Sys2Proof.Machine

/-- R304: a run of one step more ends successfully where its first step answers a next state and the rest does. -/
theorem succeedsIn_succ {n : Nat} {s t : State} :
    SucceedsIn (n + 1) s t ↔ ∃ u, step s = .next u ∧ SucceedsIn n u t := by
  have hc : Sys2Proof.core.step s = step s := rfl
  simp only [SucceedsIn, Host.Core.run, hc]
  cases step s <;> simp

/-- R304: a run that ends successfully starts without a model fault. -/
theorem SucceedsIn.live {n : Nat} {s t : State} (h : SucceedsIn n s t) : s.Live := by
  cases n with
  | zero => exact (Host.Outcome.next.inj h.1 : s = t) ▸ h.2
  | succ n =>
    obtain ⟨u, hu, -⟩ := succeedsIn_succ.1 h
    exact (step_eq_next hu).1

/-- The WAIT of duration `d` of the context `k` at level `l` is in progress above the entries `below`. -/
def State.Waiting (s : State) (k : ContextKind) (l : Level) (d : Word) (below : List Context) : Prop :=
  .code k l (some d) :: below <:+ s.ctx

/-- A suffix that starts with a spinning context is the whole stack, or is left alone by a change of the top entry. -/
theorem suffix_cons_cases {e : Context} {w stack rest : List Context} (h : w <:+ stack) (hs : stack = e :: rest) :
    w = e :: rest ∨ w <:+ rest := by
  subst hs
  exact List.suffix_cons_iff.1 h

/-- R192: the entry of a spinning context and all entries beneath it stay at every step but its completing Spin, which
takes its WAIT off and keeps the entries beneath. -/
theorem step_keeps_wait {s t : State} {k : ContextKind} {l : Level} {d : Word} {below : List Context}
    (h : step s = .next t) (hw : s.Waiting k l d below) :
    t.Waiting k l d below ∨
    (s.nextChoice.1 = .spin ∧ s.enabled .spin = true ∧ s.waitCompletesAt (below.length + 1) ∧
      t.ctx = .code k l none :: below) := by
  have hw' : .code k l (some d) :: below <:+ s.nextChoice.2.ctx := by simpa [State.Waiting] using hw
  obtain ⟨-, h⟩ := step_eq_next h
  rcases runEvent_cases h with ⟨-, rfl⟩ | ⟨he, h⟩
  · exact .inl hw'
  have push : ∀ e, .code k l (some d) :: below <:+ e :: s.nextChoice.2.ctx := fun e => hw'.trans (List.suffix_cons _ _)
  unfold State.Waiting
  rcases perform_cases h with ⟨_, _, _, i, hc, -, h⟩ | ⟨_, _, _, -, -, rfl⟩ | ⟨-, rfl⟩ | ⟨c, -, rfl⟩ | ⟨c, -, rfl⟩ |
    ⟨c, -, rfl⟩ | ⟨p, -, rfl⟩ | ⟨-, rfl⟩ | ⟨-, rfl⟩ | ⟨hc, rfl⟩ | ⟨p, i, dir, -, rfl⟩ | ⟨p, i, -, rfl⟩
  · rcases exec_ctx h with e | ⟨d', -, e⟩
    · exact .inl (e ▸ hw')
    · rw [hc] at he
      obtain ⟨k', l', rest, hr⟩ := (codeOnTop_iff _).1 he
      rw [e, hr, setTopWait]
      rcases suffix_cons_cases hw' hr with hx | hx
      · cases hx
      · exact .inl (hx.trans (List.suffix_cons _ _))
  · exact .inl hw'
  · exact .inl (by rw [tick_ctx]; exact hw')
  · rcases timerService_callback c with ⟨-, e, -⟩ | ⟨-, e, -⟩
    · exact .inl (e ▸ push _)
    · exact .inl (e ▸ hw')
  · exact .inl hw'
  · exact .inl (by rw [pwmServiceB_ctx]; exact hw')
  · exact .inl (push _)
  · left
    unfold dispatchStep
    split
    · next p l' n rest hr =>
      have hx : .code k l (some d) :: below <:+ rest := (suffix_cons_cases hw' hr).resolve_left (fun hx => by cases hx)
      unfold dispatchPort
      split
      · exact hx
      · split
        · exact (hx.trans (List.suffix_cons _ _)).trans (List.suffix_cons _ _)
        · exact hx.trans (List.suffix_cons _ _)
    · exact hw'
  · left
    unfold State.returnFromCallback
    split
    · next c l' rest hr => exact (suffix_cons_cases hw' hr).resolve_left (fun hx => by cases hx)
    · next p j l' rest hr =>
      have hx : .code k l (some d) :: below <:+ rest := (suffix_cons_cases hw' hr).resolve_left (fun hx => by cases hx)
      show _ <:+ setCursor _ rest
      unfold setCursor
      split
      · exact ((suffix_cons_cases hx rfl).resolve_left (fun hx => by cases hx)).trans (List.suffix_cons _ _)
      · exact hx
    · exact hw'
  · rw [hc] at he
    obtain ⟨d', hd⟩ := Option.isSome_iff_exists.1 he
    obtain ⟨k', l', rest, hr⟩ := (spinning_iff _ _).1 hd
    rw [hd, Option.getD_some]
    unfold spin
    split
    · next hge =>
      simp only [State.setWait, State.complete, hr, setTopWait]
      rcases suffix_cons_cases hw' hr with hx | hx
      · cases hx
        have hs : s.ctx = .code k l (some d) :: below := by simpa using hr
        refine .inr ⟨hc, (enabled_nextChoice _).symm.trans he, ⟨⟨d, ?_, ?_⟩, ?_⟩, rfl⟩
        · exact (spinning_iff _ _).2 ⟨_, _, _, hs⟩
        · simpa using hge
        · rw [hs]; rfl
      · exact .inl (hx.trans (List.suffix_cons _ _))
    · exact .inl hw'
  · left
    unfold pinEdge
    split <;> exact hw'
  · exact .inl hw'

/-- R361(d), of each WAIT: in a fair run a WAIT whose completing Spin is enabled in infinitely many states completes. -/
theorem Fair.wait_completes {r : Nat → State} (hr : IsRun r) (hf : Fair r) {n : Nat} {k : ContextKind} {l : Level}
    {d : Word} {below : List Context} (hw : (r n).Waiting k l d below)
    (hio : InfinitelyOften fun m => (r m).waitCompletesAt (below.length + 1)) :
    ∃ m, n ≤ m ∧ (r m).Waiting k l d below ∧ TakenAt r m .spin ∧ (r (m + 1)).ctx = .code k l none :: below := by
  refine Classical.byContradiction fun hno => ?_
  have stays : ∀ j, (r (n + j)).Waiting k l d below := by
    intro j
    induction j with
    | zero => exact hw
    | succ j ih =>
      rcases step_keeps_wait (hr.2 (n + j)) ih with h | ⟨h1, h2, -, h3⟩
      · exact h
      · exact absurd ⟨n + j, Nat.le_add_right _ _, ih, ⟨h1, h2⟩, h3⟩ hno
  obtain ⟨m, hm, ⟨hc, he⟩, ⟨d', hd, hge⟩, hlen⟩ := hf.spins _ hio n
  obtain ⟨j, rfl⟩ := Nat.exists_eq_add_of_le hm
  have hctx : (r (n + j)).ctx = .code k l (some d) :: below := ((stays j).eq_of_length (by rw [hlen]; rfl)).symm
  refine hno ⟨n + j, hm, stays j, ⟨hc, he⟩, ?_⟩
  have hs := (spinning_iff _ _).2 ⟨k, l, below, hctx⟩
  have ht := (step_eq_next (hr.2 (n + j))).2
  rw [show (r (n + j)).nextChoice.1 = .spin from hc, runEvent, enabled_nextChoice, if_pos he] at ht
  have hs' : (r (n + j)).nextChoice.2.spinning = some d := (spinning_iff _ _).2 ⟨k, l, below, by simpa using hctx⟩
  have hdd : d' = d := Option.some.inj (hd.symm.trans hs)
  subst hdd
  simp only [perform, hs', Option.getD_some, spin] at ht
  rw [if_pos (by simpa using hge)] at ht
  rw [← Host.Outcome.next.inj ht]
  simp [State.setWait, State.complete, setTopWait, hctx]

end Sys2Proof.Machine
end

