-- ==== Sys2Proof/Tests/Slice0.lean ====
section
/-! SUPPORT. The model's own tests: the checks of Sys2Proof/WellFormed.lean refuse ill-formed terms, words of
spec/30_encoding.md and spec/95_test_vectors.md decode as listed, vectors of spec/95_test_vectors.md hold for one step,
and the hypotheses of every statement of the obligations are met by a concrete state. -/

namespace Sys2Proof.Tests.Slice0

open Sys2Proof Sys2Proof.Machine

/-! ### Helpers -/

/-- What a function reads of the state after a step, if the step has a next state. -/
def after {α : Type} (r : Result) (f : State → α) : Option α :=
  match r with
  | .next t => some (f t)
  | _ => none

theorem next_of_after {r : Result} {f : State → Bool} (h : after r f = some true) : ∃ t, r = .next t ∧ f t = true := by
  cases r with
  | next t => exact ⟨t, rfl, by simpa [after] using h⟩
  | fault _ => simp [after] at h
  | refused _ => simp [after] at h

theorem next_of_some {r : Result} (h : after r (fun _ => true) = some true) : ∃ t, r = .next t := by
  obtain ⟨t, h, _⟩ := next_of_after h
  exact ⟨t, h⟩

/-- The status and value a command returned last. -/
def returned (t : State) : Option (Status × Word) :=
  match t.events.getLast? with
  | some (.result _ st v) => some (st, v)
  | _ => none

/-- The state after reset of spec/95 section 1 with frequency `f` selected. -/
def freq (f : Word) : State := { State.reset with freqSel := some f }

/-- Frequency 0 with timer channel `c` as given. -/
def withTmr (c : Index) (t : TimerChannel) : State := (freq 0).setTmr c t

/-- Frequency 0 with PWM channel `c` as given. -/
def withPwm (c : Index) (w : PwmChannel) : State := (freq 0).setPwm c w

/-- P = 8, postscale 10, handler 1, level 2, running; T9 and T15 of spec/95. -/
def timer : TimerChannel := ⟨8, 7, 7, 10, 1, 2, true, true, 0⟩

/-- The same channel, stopped and with nothing pending. -/
def stoppedTimer : TimerChannel := ⟨8, 4, 7, 10, 1, 2, false, false, 3⟩

/-- Channel 0 as the millisecond clock at 8 MHz, running, its period event pending. -/
def msTimer : TimerChannel := ⟨8000, 0, 0, 1, 0, 1, true, true, 0⟩

/-- P = 80, d = 20, level 5 on pin (0, 0), running, with the given counter and pending flags. -/
def pwm (counter : Nat) (a b : Bool) : PwmChannel := ⟨0, 1, 80, 16384, 20, counter, 5, true, a, b, 0⟩

/-- The same channel, stopped. -/
def stoppedPwm : PwmChannel := ⟨0, 1, 80, 16384, 20, 0, 5, false, false, false, 2⟩

/-- D1 of spec/95: pin (0, 3) bound to handler 7, rising edge. -/
def bound (flagged : Bool) : State :=
  (State.reset.setPin 0 3 ⟨.rising, 7, flagged, none⟩).setPort 0 ⟨flagged, true, 0⟩

/-- `s` with the choice `e` next. -/
def offering (s : State) (e : Event) : State := { s with inbox := [e] }

/-! ### WellFormed smoke -/

theorem test_wellFormed_vectors : Config.vectors.wellFormed = true := by decide

theorem test_wellFormed_refuses_cntW :
    Config.cntWOk { Config.vectors with cntW := 0 } = false ∧ Config.wellFormed { Config.vectors with cntW := 33 } = false := by
  decide

theorem test_wellFormed_refuses_nTmr :
    Config.nTmrOk { Config.vectors with nTmr := 0 } = false ∧ Config.wellFormed { Config.vectors with nTmr := 17 } = false := by
  decide

theorem test_wellFormed_refuses_nPwm :
    Config.nPwmOk { Config.vectors with nPwm := 17 } = false ∧ Config.wellFormed { Config.vectors with nPwm := 17 } = false := by
  decide

theorem test_wellFormed_refuses_nPort :
    Config.nPortOk { Config.vectors with nPort := 17 } = false ∧
      Config.wellFormed { Config.vectors with nPort := 17 } = false := by
  decide

theorem test_wellFormed_refuses_nPin :
    Config.nPinOk { Config.vectors with nPin := 0 } = false ∧ Config.wellFormed { Config.vectors with nPin := 17 } = false := by
  decide

theorem test_wellFormed_refuses_nFreq :
    Config.nFreqOk { Config.vectors with nFreq := 0, rates := [] } = false ∧
      Config.wellFormed { Config.vectors with nFreq := 3 } = false := by
  decide

theorem test_wellFormed_refuses_rates :
    Config.ratesOk { Config.vectors with rates := [⟨8, 8000⟩, ⟨0, 1000⟩] } = false ∧
      Config.wellFormed { Config.vectors with rates := [⟨8, 0⟩, ⟨1, 1000⟩] } = false := by
  decide

theorem test_wellFormed_refuses_pwmBounds :
    Config.pwmBoundsOk { Config.vectors with pwmMin := 17, pwmMax := 16 } = false ∧
      Config.wellFormed { Config.vectors with pwmMax := 65536 } = false ∧
      Config.wellFormed { Config.vectors with pwmMin := 0 } = false := by
  decide

theorem test_wellFormed_refuses_clock_rate_operands :
    Instr.wellFormed Config.vectors (.setfreq 2) = false ∧ Instr.wellFormed Config.vectors (.setfreq 1) = true := by
  decide

theorem test_wellFormed_refuses_timer_operands :
    Instr.wellFormed Config.vectors (.tcfg 4 2 .ms 1 1 1) = false ∧
      Instr.wellFormed Config.vectors (.tcfg 1 2 .us 1 0 1) = false ∧
      Instr.wellFormed Config.vectors (.tcfg 1 2 .ms 1 1 0) = false ∧
      Instr.wellFormed Config.vectors (.tcfg 0 2 .us 1 1000 1) = false ∧
      Instr.wellFormed Config.vectors (.tstart 4) = false ∧ Instr.wellFormed Config.vectors (.tstop 4) = false ∧
      Instr.wellFormed Config.vectors (.tsetiv 0 5) = false ∧ Instr.wellFormed Config.vectors (.tsetiv 1 0) = false ∧
      Instr.wellFormed Config.vectors (.tmiss 4) = false := by
  decide

theorem test_wellFormed_refuses_pwm_operands :
    Instr.wellFormed Config.vectors (.pcfg 0 0 5 .us 10 3) = false ∧
      Instr.wellFormed Config.vectors (.pcfg 0 0 5 .us 10 0) = false ∧
      Instr.wellFormed Config.vectors (.pcfg 0 0 5 .us 10 65536) = false ∧
      Instr.wellFormed Config.vectors (.pcfg 0 2 5 .us 10 1) = false ∧
      Instr.wellFormed Config.vectors (.pduty 2 1) = false ∧ Instr.wellFormed Config.vectors (.pstart 2) = false ∧
      Instr.wellFormed Config.vectors (.pstop 2) = false ∧ Instr.wellFormed Config.vectors (.pmiss 2) = false := by
  decide

theorem test_wellFormed_refuses_pin_operands :
    Instr.wellFormed Config.vectors (.bind 0 1 0 1) = false ∧ Instr.wellFormed Config.vectors (.bind 2 1 1 1) = false ∧
      Instr.wellFormed { Config.vectors with nPin := 8 } (.bind 0 8 1 1) = false ∧
      Instr.wellFormed Config.vectors (.spur 2) = false := by
  decide

/-! ### Decoding: words written out from R101 and R103 -/

theorem test_decode_nop : decode ⟨0b00000000_00_0_000_0000_0000_0000_000000, 0, 0⟩ = .ok .nop := by decide

theorem test_decode_setfreq : decode ⟨0b00000000_00_0_000_0000_0000_0000_000001, 1, 0⟩ = .ok (.setfreq 1) := by decide

theorem test_decode_getfreq : decode ⟨0b00000000_00_0_000_0000_0000_0000_000010, 0, 0⟩ = .ok .getfreq := by decide

theorem test_decode_getrate :
    decode ⟨0b00000000_00_1_000_0000_0000_0000_000011, 0, 0⟩ = .ok (.getrate .ms) ∧
      decode ⟨0b00000000_00_0_000_0000_0000_0000_000011, 0, 0⟩ = .ok (.getrate .us) := by decide

theorem test_decode_tcfg :
    decode ⟨0b00000001_00_1_010_0000_0000_0001_001000, 1, 10⟩ = .ok (.tcfg 1 2 .ms 1 1 10) := by decide

theorem test_decode_tstart : decode ⟨0b00000000_00_0_000_0000_0000_0011_001001, 0, 0⟩ = .ok (.tstart 3) := by decide

theorem test_decode_tstop : decode ⟨0b00000000_00_0_000_0000_0000_0001_001010, 0, 0⟩ = .ok (.tstop 1) := by decide

theorem test_decode_tsetiv : decode ⟨0b00000000_00_0_000_0000_0000_0001_001011, 5, 0⟩ = .ok (.tsetiv 1 5) := by decide

theorem test_decode_tmiss : decode ⟨0b00000000_00_0_000_0000_0000_0010_001100, 0, 0⟩ = .ok (.tmiss 2) := by decide

theorem test_decode_millis : decode ⟨0b00000000_00_0_000_0000_0000_0000_010000, 0, 0⟩ = .ok .millis := by decide

theorem test_decode_wait : decode ⟨0b00000000_00_0_000_0000_0000_0000_010001, 3, 0⟩ = .ok (.wait 3) := by decide

theorem test_decode_pcfg :
    decode ⟨0b00000000_00_0_101_0000_0001_0001_011000, 10, 16⟩ = .ok (.pcfg 1 1 5 .us 10 16) := by decide

theorem test_decode_pduty : decode ⟨0b00000000_00_0_000_0000_0000_0001_011001, 32768, 0⟩ = .ok (.pduty 1 32768) := by
  decide

theorem test_decode_pstart : decode ⟨0b00000000_00_0_000_0000_0000_0001_011010, 0, 0⟩ = .ok (.pstart 1) := by decide

theorem test_decode_pstop : decode ⟨0b00000000_00_0_000_0000_0000_0001_011011, 0, 0⟩ = .ok (.pstop 1) := by decide

theorem test_decode_pmiss : decode ⟨0b00000000_00_0_000_0000_0000_0001_011100, 0, 0⟩ = .ok (.pmiss 1) := by decide

theorem test_decode_bind :
    decode ⟨0b00000111_01_0_000_0011_0000_0000_100000, 0, 0⟩ = .ok (.bind 0 3 1 7) ∧
      decode ⟨0b00000001_11_0_000_0000_0001_0000_100000, 0, 0⟩ = .ok (.bind 1 0 3 1) := by decide

theorem test_decode_spur : decode ⟨0b00000000_00_0_000_0000_0001_0000_100001, 0, 0⟩ = .ok (.spur 1) := by decide

theorem test_decode_rderr : decode ⟨0b00000000_00_0_000_0000_0000_0000_101000, 0, 0⟩ = .ok .rderr := by decide

/-- E2–E6 of spec/95: illegal words. -/
theorem test_decode_illegal :
    decode ⟨0x04, 0, 0⟩ = .reservedOpcode 4 ∧ decode ⟨0x40, 0, 0⟩ = .strayField .nop ∧
      decode ⟨0x409, 0, 0⟩ = .strayField .tstart ∧ decode ⟨0x3F, 0, 0⟩ = .reservedOpcode 0x3F ∧
      decode ⟨0x00200002, 0, 0⟩ = .strayField .getfreq := by decide

/-- R81: W0 of `MSCFG prio=1, h=0` (0x00240008) as bytes, the least significant first; R82: eleven bytes are no command. -/
theorem test_decode_bytes :
    decodeBytes [0x08, 0x00, 0x24, 0x00, 1, 0, 0, 0, 1, 0, 0, 0, 0xFF] = (.ok (.tcfg 0 1 .ms 0 1 1), [0xFF]) ∧
      decodeBytes [0x08, 0x00, 0x24, 0x00, 1, 0, 0, 0, 1, 0, 0] =
        (.incomplete, [0x08, 0x00, 0x24, 0x00, 1, 0, 0, 0, 1, 0, 0]) := by decide

theorem test_decodeTableWord :
    decodeTableWord 96 (0x01280048 + 2 ^ 32 * 8 + 2 ^ 64) = some (.tcfg 1 2 .ms 1 8 1) ∧
      decodeTableWord 32 0x00000409 = none := by decide

/-! ### Vectors of spec/95_test_vectors.md section 3, one step each -/

/-- E1. -/
theorem test_nop : after (exec .nop State.reset) returned = some (some (.ok, 0)) := by decide

/-- K3. -/
theorem test_setfreq_bad_index :
    after (exec (.setfreq 2) State.reset) (fun t => (returned t, t.freqSel)) = some (some (.configErr, 0), none) := by
  decide

/-- K8. -/
theorem test_setfreq_after_configure :
    after (exec (.setfreq 1) (withTmr 1 stoppedTimer)) (fun t => (t.fault, t.freqSel)) =
      some (some .freqChangeAfterConfigure, some 0) := by decide

/-- K1. -/
theorem test_getfreq_unset :
    after (exec .getfreq State.reset) (fun t => (returned t, t.lastError)) = some (some (.configErr, 0), .configErr) := by
  decide

/-- K6. -/
theorem test_getrate :
    after (exec (.getrate .ms) (freq 0)) returned = some (some (.ok, 8000)) ∧
      after (exec (.getrate .us) (freq 0)) returned = some (some (.ok, 8)) := by decide

/-- T3. -/
theorem test_tcfg_fits :
    after (exec (.tcfg 1 2 .us 1 8191 1) (freq 0)) (fun t => (returned t, t.tmrAt 1)) =
      some (some (.ok, 0), ⟨65528, 0, 0, 1, 1, 2, false, false, 0⟩) := by decide

/-- T8c. -/
theorem test_tcfg_exact_product :
    after (exec (.tcfg 1 2 .us 1 4294967295 1) (freq 0)) (fun t => (returned t, t.tmrAt 1)) =
      some (some (.configErr, 0), TimerChannel.reset) := by decide

/-- T12. -/
theorem test_tstart_running :
    after (exec (.tstart 1) (withTmr 1 timer)) (fun t => (returned t, t.tmrAt 1)) = some (some (.ok, 0), timer) := by decide

/-- P5, step 5. -/
theorem test_tstop_discards :
    after (exec (.tstop 1) (withTmr 1 timer)) (fun t => ((t.tmrAt 1).IF, (t.tmrAt 1).enabled)) = some (false, false) := by
  decide

/-- T9. -/
theorem test_tsetiv :
    after (exec (.tsetiv 1 5) (withTmr 1 timer)) (fun t => ((t.tmrAt 1).softCountMax, (t.tmrAt 1).softCounter)) =
      some (5, 7) := by decide

/-- T14. -/
theorem test_tmiss :
    after (exec (.tmiss 2) (withTmr 2 { timer with missed := 2 })) (fun t => (returned t, (t.tmrAt 2).missed)) =
      some (some (.ok, 2), 2) := by decide

/-- P4, step 5, with the counter at 3. -/
theorem test_millis :
    after (exec .millis { State.reset with ms := ⟨3, 3, false⟩ }) returned = some (some (.ok, 3)) := by decide

/-- M6: WAIT d=0 spins, and completes at the first Spin. -/
theorem test_wait_zero :
    after (exec (.wait 0) State.reset) (fun t => (t.spinning, returned (spin 0 t), (spin 0 t).ctx)) =
      some (some 0, some (.ok, 0), [.code .fg 0 none]) := by decide

/-- W3. -/
theorem test_pcfg_clamps :
    after (exec (.pcfg 0 0 5 .ms 10000 1) (freq 0)) (fun t => (returned t, (t.pwmAt 0).periodTicks)) =
      some (some (.ok, 0), 65535) := by decide

/-- W9. -/
theorem test_pcfg_conflict :
    after (exec (.pcfg 1 0 5 .us 10 1) (withPwm 0 stoppedPwm)) (fun t => (returned t, t.pwmAt 1)) =
      some (some (.conflictErr, 0), PwmChannel.reset) := by decide

/-- W15: the tie rounds up. -/
theorem test_pduty_tie :
    after (exec (.pduty 0 32768) (withPwm 0 { stoppedPwm with periodTicks := 2 })) (fun t => (t.pwmAt 0).dutyTicks) =
      some 1 := by decide

/-- W14. -/
theorem test_pduty_clamps :
    after (exec (.pduty 0 70000) (withPwm 0 stoppedPwm)) (fun t => ((t.pwmAt 0).dutyFrac, (t.pwmAt 0).dutyTicks)) =
      some (65536, 80) := by decide

/-- P2, step 4. -/
theorem test_pstart :
    after (exec (.pstart 0) (withPwm 0 stoppedPwm)) (fun t => (t.events, (t.pinAt 0 0).outLevel, (t.pwmAt 0).missed)) =
      some ([.drive 0 0 .high, .result (.op .pstart) .ok 0], some .high, 0) := by decide

/-- W25. -/
theorem test_pstop :
    after (exec (.pstop 0) ((withPwm 0 (pwm 3 true true)).setPin 0 0 ⟨.none, 0, false, some .high⟩))
        (fun t => ((t.pwmAt 0).enabled, (t.pwmAt 0).IFA, (t.pwmAt 0).IFB, (t.pinAt 0 0).outLevel)) =
      some (false, false, false, some .high) := by decide

/-- R207. -/
theorem test_pmiss : after (exec (.pmiss 0) (withPwm 0 stoppedPwm)) returned = some (some (.ok, 2)) := by decide

/-- D1. -/
theorem test_bind :
    after (exec (.bind 0 3 1 7) State.reset) (fun t => (returned t, t.pinAt 0 3, t.portAt 0)) =
      some (some (.ok, 0), ⟨.rising, 7, false, none⟩, ⟨false, true, 0⟩) := by decide

/-- D5. -/
theorem test_bind_conflict :
    after (exec (.bind 0 0 3 1) (withPwm 0 stoppedPwm)) (fun t => (returned t, (t.pinAt 0 0).edge)) =
      some (some (.conflictErr, 0), .none) := by decide

/-- P3, step 5. -/
theorem test_spur :
    after (exec (.spur 0) (State.reset.setPort 0 ⟨false, true, 1⟩)) returned = some (some (.ok, 1)) := by decide

/-- P3, step 8. -/
theorem test_rderr :
    after (exec .rderr { State.reset with lastError := .conflictErr }) (fun t => (returned t, t.lastError)) =
      some (some (.ok, 2), .ok) := by decide

/-- T15 and W21: one Tick of timer channel 1 and PWM channel 0. -/
theorem test_tick :
    after (stepOn .tick ((withTmr 1 timer).setPwm 0 (pwm 19 false false)))
        (fun t => ((t.tmrAt 1).counter, (t.tmrAt 1).IF, (t.tmrAt 1).missed, (t.pwmAt 0).counter, (t.pwmAt 0).IFB)) =
      some (0, true, 1, 20, true) := by decide

/-- M2. -/
theorem test_timer_service_fires :
    after (stepOn (.take (.tmr 1)) (withTmr 1 { timer with softCounter := 2, softCountMax := 3, callback := 5 }))
        (fun t => ((t.tmrAt 1).softCounter, t.events, t.ctx)) =
      some (0, [.invoke (.tmr 1) 5], [.code (.timerCB 1) 2 none, .code .fg 0 none]) := by decide

/-- I1: of a timer event at level 2 and a PWM event at level 5, only the PWM event may be taken. -/
theorem test_take_highest :
    let s := (withTmr 1 timer).setPwm 0 (pwm 0 true false)
    s.takeable (.pwmA 0) = true ∧ s.takeable (.tmr 1) = false := by decide

/-- P3, step 2: the DispatchStep invokes handler 7 of pin (0, 3). -/
theorem test_dispatch :
    after (stepOn .dispatchStep { bound true with ctx := [.dispatch 0 4 0, .code .fg 0 none] })
        (fun t => (t.events, t.ctx)) =
      some ([.invoke (.pin 0 3) 7], [.code (.pinCB 0 3) 4 none, .dispatch 0 4 3, .code .fg 0 none]) := by decide

/-- D7: the Return clears pin 3's flag and sets the cursor to 4. -/
theorem test_return :
    after (stepOn .ret { bound true with ctx := [.code (.pinCB 0 3) 4 none, .dispatch 0 4 3, .code .fg 0 none] })
        (fun t => ((t.pinAt 0 3).changeFlag, t.ctx)) =
      some (false, [.dispatch 0 4 4, .code .fg 0 none]) := by decide

/-- T8e: the command placed where the next step reads it runs as the first step after reset, where no frequency is
selected. -/
theorem test_withFetchWord :
    after (step (State.reset.withFetchWord 96 (0x00200048 + 2 ^ 32 * 1 + 2 ^ 64))) (·.fault) = some (some .freqUnset) := by
  decide

/-! ### Witnesses: a concrete state and operands for the hypotheses of each statement, clause by clause -/

/-- A decidable fact about every source, from the same fact about each kind. -/
theorem forall_source {p : Source → Prop} (h1 : ∀ c, p (.tmr c)) (h2 : ∀ c, p (.pwmA c)) (h3 : ∀ c, p (.pwmB c))
    (h4 : ∀ c, p (.pcn c)) : ∀ src, p src
  | .tmr c => h1 c
  | .pwmA c => h2 c
  | .pwmB c => h3 c
  | .pcn c => h4 c

/-- A busy block: timer channel 1 and PWM channel 0 run, its pin (0, 0) is High, pin (0, 3) is bound, the foreground is on
top. -/
def busy : State :=
  ((((withTmr 1 timer).setPwm 0 (pwm 19 false false)).setPin 0 0 ⟨.none, 0, false, some .high⟩).setPin 0 3
    ⟨.rising, 7, false, none⟩).setPort 0 ⟨false, true, 0⟩

theorem busy_live : busy.Live := ⟨by decide, by decide⟩

theorem busy_timers : busy.TimersSound := by
  unfold State.TimersSound TimerChannel.Sound
  decide

theorem busy_pwms : busy.PwmsConsistent := by
  unfold State.PwmsConsistent PwmChannel.Consistent PwmChannel.Sound
  decide

theorem busy_claims : ∀ c : Index, c.toNat < busy.cfg.nPwm → ∀ p i : Index, (busy.pwmAt c).claims p i.toNat = true →
    c = 0 ∧ p = 0 ∧ i = 0 := by
  decide

theorem busy_pins : busy.PinsExclusive := by
  refine ⟨fun c p i hc h => ?_, fun c c' p i hc hc' h h' => ?_⟩
  · obtain ⟨-, rfl, rfl⟩ := busy_claims c hc p i h
    decide
  · rw [(busy_claims c hc p i h).1, (busy_claims c' hc' p i h').1]

theorem busy_stack : StackSound busy.cfg busy.ctx := rfl

theorem busy_frequency : busy.FrequencySound := by
  refine ⟨fun f h => ?_, fun h => absurd h (by decide), fun f h h' => absurd h' (by decide)⟩
  obtain rfl : (0 : Word) = f := Option.some.inj h
  decide

theorem witness_DecodeOfEncodeIsIdentity : (encode (.bind 15 15 3 255)).w0 = 0xFFC3FC20 := by decide

theorem witness_EncodeOfDecodeKeepsEveryUsedBit :
    decode ⟨0x01280048, 1, 10⟩ = .ok (.tcfg 1 2 .ms 1 1 10) ∧ decode ⟨0x49, 7, 9⟩ = .ok (.tstart 1) ∧
      decode ⟨0x01, 1, 9⟩ = .ok (.setfreq 1) := by decide

theorem witness_DecodeAgreesWithPatternTable :
    (∃ i, decode ⟨0x49, 0, 0⟩ = .ok i ∧ i.opcode = .tstart) ∧
      (0x49 : Word) &&& Opcode.tstart.mask = Opcode.tstart.pattern ∧
      ∀ o : Opcode, (0x409 : Word) &&& o.mask ≠ o.pattern :=
  ⟨⟨.tstart 1, by decide⟩, by decide, fun o => by cases o <;> decide⟩

theorem witness_IllegalCommandChangesOnlyLastError :
    (0x04 : Word).toNat % 64 ∈ ([0x04] : List Nat) ∧ 0x29 ≤ (0xFFFFFFE9 : Word).toNat % 64 ∧
      0x29 ≤ (0x3F : Word).toNat % 64 ∧ ∀ i, decode ⟨0x409, 0, 0⟩ ≠ .ok i :=
  ⟨by decide, by decide, by decide, fun i h => by
    rw [show decode ⟨0x409, 0, 0⟩ = .strayField .tstart by decide] at h
    exact Decoded.noConfusion h⟩

/-- A TSTART of channel 1, the word with a stray bit, and a stack with a dispatch on top. -/
theorem witness_StepRunsDecodedCommand :
    ((offering busy (.issue 0x49 0 0)).Live ∧ (offering busy (.issue 0x49 0 0)).inbox = .issue 0x49 0 0 :: [] ∧
      (offering busy (.issue 0x49 0 0)).ctx = .code .fg 0 none :: [] ∧ decode ⟨0x49, 0, 0⟩ = .ok (.tstart 1)) ∧
      ((offering busy (.issue 0x409 0 0)).Live ∧ ∀ i, decode ⟨0x409, 0, 0⟩ ≠ .ok i) ∧
      (busy.enterDispatch 0).ctx = .dispatch 0 4 0 :: .code .fg 0 none :: [] :=
  ⟨⟨⟨by decide, by decide⟩, rfl, rfl, by decide⟩,
    ⟨⟨by decide, by decide⟩, fun i h => by
      rw [show decode ⟨0x409, 0, 0⟩ = .strayField .tstart by decide] at h
      exact Decoded.noConfusion h⟩, by decide⟩

/-- A faulted state, and a run whose last step raises the fault: a TCFG after reset. -/
theorem witness_FaultedMachineTakesNoStep :
    ((State.reset.faulted .freqUnset).cfg.wellFormed = true ∧
      (State.reset.faulted .freqUnset).fault = some .freqUnset) ∧
      ∃ t, Sys2Proof.core.run 1 (offering State.reset (.issue 0x00200048 1 1)) = .next t ∧ t.fault ≠ none :=
  ⟨by decide, _, rfl, by decide⟩

theorem witness_BadConfigurationIsRefused :
    (State.resetWith { Config.vectors with nFreq := 1 }).cfg.rates.length ≠ 1 ∧
      (⟨0, 1⟩ : Rate) ∈ (State.resetWith { Config.vectors with rates := [⟨8, 8000⟩, ⟨0, 1⟩] }).cfg.rates ∧
      (State.resetWith { Config.vectors with pwmMin := 16, pwmMax := 15 }).cfg.pwmMin > 15 ∧
      (State.resetWith { Config.vectors with pwmMax := 65536 }).cfg.pwmMax > 2 ^ 16 - 1 := by
  decide

theorem witness_LiveMachineAlwaysSteps : busy.Live := busy_live

theorem witness_DisabledChoiceChangesNothing :
    busy.Live ∧ busy.enabled .ret = false ∧ busy.enabled .spin = false ∧ busy.enabled (.take (.pwmA 0)) = false ∧
      busy.enabled (.pinEdge 2 0 .rise) = false :=
  ⟨busy_live, by decide, by decide, by decide, by decide⟩

theorem witness_ResetLeavesEveryFieldAsListed : (State.reset.faulted .freqUnset).fault ≠ none := by decide

theorem witness_StepsBeforeFirstCommand :
    Config.vectors.wellFormed = true ∧ (1 : Index).toNat < Config.vectors.nPort ∧ (15 : Index).toNat < Config.vectors.nPin := by
  decide

theorem witness_SetfreqSelectsOrFaults :
    (2 : Word).toNat ≥ (freq 0).cfg.nFreq ∧ ((1 : Word).toNat < (freq 1).cfg.nFreq ∧ (freq 1).freqSel = some 1) ∧
      (busy.freqSel ≠ some 1 ∧ busy.Configured) ∧ ((freq 0).freqSel ≠ some 1 ∧ ¬(freq 0).Configured) := by
  refine ⟨by decide, by decide, ⟨by decide, .inl ⟨1, by decide⟩⟩, by decide, ?_⟩
  unfold State.Configured
  decide

theorem witness_GetfreqReadsSelection : (freq 1).freqSel = some 1 ∧ State.reset.freqSel = none := by decide

theorem witness_GetrateReadsTableEntry :
    (freq 1).freqSel = some 1 ∧ (freq 1).cfg.rates[(1 : Word).toNat]? = some ⟨1, 1000⟩ ∧
      (freq 1).cfg.wellFormed = true ∧ State.reset.freqSel = none := by decide

/-- The success clause at the largest interval in microseconds (T3 of spec/95), and on channel 0. -/
theorem witness_TcfgConfiguresStoppedChannel :
    (4 : Index).toNat ≥ (freq 0).cfg.nTmr ∧
      ((3 : Index).toNat < State.reset.cfg.nTmr ∧ State.reset.freqSel = none) ∧
      ((1 : Index).toNat < busy.cfg.nTmr ∧ busy.freqSel ≠ none ∧ (busy.tmrAt 1).enabled = true) ∧
      ((freq 0).freqSel = some 0 ∧ (freq 0).cfg.rates[(0 : Word).toNat]? = some ⟨8, 8000⟩ ∧
        ((freq 0).tmrAt 1).enabled = false ∧ ((freq 0).tmrAt 0).enabled = false) ∧
      ((0 : Word).toNat * (8 : Word).toNat = 0 ∧ (8192 : Word).toNat * (8 : Word).toNat > 2 ^ (freq 0).cfg.cntW - 1 ∧
        ¬(TimeUnit.us = .ms ∧ (1000 : Word) = 1 ∧ (1 : Word) = 1)) ∧
      (1 ≤ (8191 : Word).toNat * (8 : Word).toNat ∧ (8191 : Word).toNat * (8 : Word).toNat ≤ 2 ^ (freq 0).cfg.cntW - 1 ∧
        (1 : Word).toNat * (8000 : Word).toNat ≤ 2 ^ (freq 0).cfg.cntW - 1) := by
  decide

theorem witness_TsetivChangesOnlyPostscale :
    ((4 : Index).toNat ≥ busy.cfg.nTmr ∧ (busy.tmrAt 2).periodTicks = 0) ∧
      ((1 : Index).toNat < busy.cfg.nTmr ∧ (busy.tmrAt 1).periodTicks ≠ 0 ∧ (1 : Index) ≠ 0 ∧ (5 : Word) ≠ 0) := by
  decide

/-- The last clause on channel 1 and on channel 0. -/
theorem witness_TstartArmsStoppedChannel :
    ((4 : Index).toNat ≥ busy.cfg.nTmr ∧ (busy.tmrAt 3).periodTicks = 0) ∧
      ((busy.tmrAt 1).periodTicks ≠ 0 ∧ (busy.tmrAt 1).enabled = true) ∧
      (((withTmr 1 stoppedTimer).tmrAt 1).periodTicks ≠ 0 ∧ ((withTmr 1 stoppedTimer).tmrAt 1).enabled = false) ∧
      (((withTmr 0 { msTimer with enabled := false }).tmrAt 0).periodTicks ≠ 0 ∧
        ((withTmr 0 { msTimer with enabled := false }).tmrAt 0).enabled = false) := by
  decide

theorem witness_TstopDiscardsPendingEvent : (4 : Index).toNat ≥ busy.cfg.nTmr ∧ (3 : Index).toNat < busy.cfg.nTmr := by
  decide

theorem witness_TmissReadsMissed : (4 : Index).toNat ≥ busy.cfg.nTmr ∧ (3 : Index).toNat < busy.cfg.nTmr := by decide

theorem witness_WaitStartsSpinning : busy.ctx = .code .fg 0 none :: [] := rfl

/-- Pins 15 and 16 of a mask, a mask of two bits and of none, a bound pin, a claimed pin, and a free one. -/
theorem witness_PcfgConfiguresStoppedChannel :
    (2 : Index).toNat ≥ busy.cfg.nPwm ∧ ((1 : Index).toNat < State.reset.cfg.nPwm ∧ State.reset.freqSel = none) ∧
      (busy.freqSel ≠ none ∧ (busy.pwmAt 0).enabled = true) ∧
      ((1 : Index).toNat < busy.cfg.nPwm ∧ busy.freqSel = some 0 ∧ (busy.pwmAt 1).enabled = false ∧
        busy.cfg.rates[(0 : Word).toNat]? = some ⟨8, 8000⟩) ∧
      ((¬∃ k < 32, (3 : Word) = 1#32 <<< k) ∧ ¬∃ k < 32, (0 : Word) = 1#32 <<< k) ∧
      ((65536 : Word) = 1#32 <<< 16 ∧ 16 ≥ busy.cfg.nPin ∧ (2 : Index).toNat ≥ busy.cfg.nPort) ∧
      ((1 : Index).toNat < busy.cfg.nPort ∧ 15 < busy.cfg.nPin ∧ busy.cfg.nPin ≤ 16 ∧
        (8 : Word) = 1#32 <<< 3 ∧ (busy.pinAt 0 (BitVec.ofNat 4 3)).edge ≠ .none ∧
        ((0 : Index) ≠ 1 ∧ (0 : Index).toNat < busy.cfg.nPwm ∧ (busy.pwmAt 0).claims 0 0 = true)) ∧
      ((32768 : Word) = 1#32 <<< 15 ∧ (busy.pinAt 1 (BitVec.ofNat 4 15)).edge = .none ∧
        ∀ c', c' ≠ 1 → c'.toNat < busy.cfg.nPwm → (busy.pwmAt c').claims 1 15 = false) := by
  refine ⟨?_, ?_, ?_, ?_, ?_, ?_, ?_, ?_⟩ <;> decide

theorem witness_PdutySetsFractionAndCompare : (2 : Index).toNat ≥ busy.cfg.nPwm ∧ (1 : Index).toNat < busy.cfg.nPwm := by
  decide

theorem witness_PstartDrivesTimeZeroLevel :
    ((2 : Index).toNat ≥ busy.cfg.nPwm ∧ (busy.pwmAt 1).pinMask = 0) ∧
      ((0 : Index).toNat < busy.cfg.nPwm ∧ (busy.pwmAt 0).pinMask ≠ 0 ∧ (busy.pwmAt 0).enabled = true) ∧
      (((withPwm 1 stoppedPwm).pwmAt 1).pinMask ≠ 0 ∧ ((withPwm 1 stoppedPwm).pwmAt 1).enabled = false) := by
  decide

theorem witness_PstopKeepsPinLevel : (2 : Index).toNat ≥ busy.cfg.nPwm ∧ (1 : Index).toNat < busy.cfg.nPwm := by decide

theorem witness_PmissReadsMissed : (2 : Index).toNat ≥ busy.cfg.nPwm ∧ (1 : Index).toNat < busy.cfg.nPwm := by decide

theorem witness_BindReplacesBinding :
    (2 : Index).toNat ≥ busy.cfg.nPort ∧
      (15 : Index).toNat ≥ (State.resetWith { Config.vectors with nPin := 15 }).cfg.nPin ∧
      ((0 : Index).toNat < busy.cfg.nPort ∧ (0 : Index).toNat < busy.cfg.nPin ∧ (3 : BitVec 2) ≠ 0 ∧
        ((0 : Index).toNat < busy.cfg.nPwm ∧ (busy.pwmAt 0).claims 0 (0 : Index).toNat = true)) ∧
      ((1 : Index).toNat < busy.cfg.nPort ∧ (15 : Index).toNat < busy.cfg.nPin ∧
        ∀ c : Index, c.toNat < busy.cfg.nPwm → (busy.pwmAt c).claims 1 (15 : Index).toNat = false) := by
  decide

theorem witness_SpurReadsSpurious : (2 : Index).toNat ≥ busy.cfg.nPort ∧ (1 : Index).toNat < busy.cfg.nPort := by decide

theorem witness_OnlyListedCommandsFail :
    (∃ t, exec (.setfreq 2) busy = .next t ∧ t = busy.errResult .setfreq .configErr) ∧
      (∃ t, exec (.bind 0 0 3 1) busy = .next t ∧ t = busy.errResult .bind .conflictErr) ∧
      (∃ t, exec (.setfreq 1) busy = .next t ∧ busy.fault = none ∧ t.fault = some .freqChangeAfterConfigure) ∧
      (∃ t, exec (.pcfg 1 0 5 .us 10 3) busy = .next t ∧ t.fault = some .pinMaskInvalid) := by
  refine ⟨⟨_, rfl, rfl⟩, ⟨_, rfl, rfl⟩, ?_, ?_⟩
  · obtain ⟨t, h, h'⟩ := next_of_after (r := exec (.setfreq 1) busy)
      (f := fun t => t.fault == some .freqChangeAfterConfigure) (by decide)
    exact ⟨t, h, by decide, eq_of_beq h'⟩
  · obtain ⟨t, h, h'⟩ := next_of_after (r := exec (.pcfg 1 0 5 .us 10 3) busy)
      (f := fun t => t.fault == some .pinMaskInvalid) (by decide)
    exact ⟨t, h, eq_of_beq h'⟩

theorem witness_ParametersNeverChange : ∃ t, step (offering busy (.issue 0x4B 5 0)) = .next t :=
  next_of_some (by decide)

theorem witness_EventLogOnlyGrowsAndIsNeverRead : ∃ t, step (offering busy (.take (.tmr 1))) = .next t :=
  next_of_some (by decide)

/-- Channel 0 with its period event pending. -/
def msBusy : State := (freq 0).setTmr 0 msTimer

theorem witness_MillisCounterChangesInTwoWays :
    (∃ t, step (offering msBusy (.take (.tmr 0))) = .next t) ∧
      (offering msBusy (.take (.tmr 0))).nextChoice.1 = .take (.tmr 0) ∧
      (offering msBusy (.take (.tmr 0))).takeable (.tmr 0) = true ∧ (msBusy.tmrAt 0).enabled = true :=
  ⟨next_of_some (by decide), by decide, by decide, by decide⟩

theorem witness_WaitCounterHasOneWriterEach : ∃ t, step (offering msBusy (.take (.tmr 0))) = .next t :=
  next_of_some (by decide)

/-- A Tick, and a TCFG of the stopped channel 1. -/
theorem witness_StoppedTimerStaysSilent :
    ((∃ t, step (offering busy .tick) = .next t) ∧ ((offering busy .tick).tmrAt 3).enabled = false ∧
      ∀ w0 w1 w2, (offering busy .tick).nextChoice.1 = .issue w0 w1 w2 → decode ⟨w0, w1, w2⟩ ≠ .ok (.tstart 3)) ∧
      ((∃ t, step (offering (withTmr 1 stoppedTimer) (.issue 0x01280048 1 10)) = .next t) ∧
        ((offering (withTmr 1 stoppedTimer) (.issue 0x01280048 1 10)).tmrAt 1).enabled = false ∧
        decode ⟨0x01280048, 1, 10⟩ ≠ .ok (.tstart 1)) :=
  ⟨⟨next_of_some (by decide), by decide, fun _ _ _ h => Event.noConfusion h⟩, next_of_some (by decide), by decide,
    by decide⟩

/-- A channel before its rollover, at it, and at it with an event pending. -/
theorem witness_TickCountsEveryRunningTimer :
    busy.Live ∧ ((4 : Index).toNat ≥ busy.cfg.nTmr ∧ (busy.tmrAt 0).enabled = false) ∧
      ((withTmr 1 { timer with counter := 6 }).tmrAt 1).counter + 1 <
        ((withTmr 1 { timer with counter := 6 }).tmrAt 1).periodTicks ∧
      ((busy.tmrAt 1).enabled = true ∧ (busy.tmrAt 1).counter + 1 ≥ (busy.tmrAt 1).periodTicks ∧
        (busy.tmrAt 1).IF = true) ∧
      ((withTmr 1 { timer with IF := false }).tmrAt 1).IF = false :=
  ⟨busy_live, by decide, by decide, by decide, by decide⟩

theorem witness_TickRaisesCompareEvents :
    busy.Live ∧ (2 : Index).toNat ≥ busy.cfg.nPwm ∧ (busy.pwmAt 1).enabled = false ∧
      ((0 : Index).toNat < busy.cfg.nPwm ∧ (busy.pwmAt 0).enabled = true) :=
  ⟨busy_live, by decide, by decide, by decide⟩

theorem witness_PeriodEventsComeEveryPeriod :
    let s := withTmr 1 { timer with counter := 0, IF := false }
    s.Live ∧ (1 : Index).toNat < s.cfg.nTmr ∧ (s.tmrAt 1).enabled = true ∧ (s.tmrAt 1).counter = 0 ∧
      (s.tmrAt 1).IF = false ∧ (s.tmrAt 1).missed = 0 ∧ 7 < (s.tmrAt 1).periodTicks :=
  ⟨⟨by decide, by decide⟩, by decide, by decide, by decide, by decide, by decide, by decide⟩

/-- A service that counts, one that fires with a handler, and one of channel 0 that fires without. -/
theorem witness_TimerServiceCountsAndFires :
    (busy.Live ∧ busy.takeable (.tmr 1) = true ∧
      (busy.tmrAt 1).softCounter.toNat + 1 < (busy.tmrAt 1).softCountMax.toNat) ∧
      ((withTmr 1 { timer with softCounter := 9 }).takeable (.tmr 1) = true ∧
        ((withTmr 1 { timer with softCounter := 9 }).tmrAt 1).softCounter.toNat + 1 ≥ 10 ∧
        ((withTmr 1 { timer with softCounter := 9 }).tmrAt 1).callback ≠ 0) ∧
      (msBusy.takeable (.tmr 0) = true ∧ (msBusy.tmrAt 0).callback = 0) :=
  ⟨⟨busy_live, by decide, by decide⟩, by decide, by decide⟩

/-- A WAIT of 3 with the wait counter at 3, and at 2. -/
theorem witness_SpinCompletesWait :
    let s := fun n => ({ busy with ms := ⟨9, n, true⟩, ctx := [.code .fg 0 (some 3)] } : State)
    ((s 3).Live ∧ (s 3).ctx = .code .fg 0 (some 3) :: [] ∧ (3 : Word).toNat ≤ (s 3).ms.waitCounter.toNat) ∧
      ((s 2).Live ∧ (s 2).ms.waitCounter.toNat < (3 : Word).toNat) :=
  ⟨⟨⟨by decide, by decide⟩, by decide, by decide⟩, ⟨by decide, by decide⟩, by decide⟩

theorem witness_PwmServicesDrivePin :
    ((withPwm 0 (pwm 0 true true)).Live ∧ (withPwm 0 (pwm 0 true true)).takeable (.pwmA 0) = true ∧
      (withPwm 0 (pwm 0 true true)).takeable (.pwmB 0) = true ∧
      ((withPwm 0 (pwm 0 true true)).pwmAt 0).dutyTicks < ((withPwm 0 (pwm 0 true true)).pwmAt 0).periodTicks) ∧
      ((withPwm 0 { pwm 20 false true with dutyTicks := 80 }).takeable (.pwmB 0) = true ∧
        ((withPwm 0 { pwm 20 false true with dutyTicks := 80 }).pwmAt 0).dutyTicks ≥
          ((withPwm 0 { pwm 20 false true with dutyTicks := 80 }).pwmAt 0).periodTicks) :=
  ⟨⟨⟨by decide, by decide⟩, by decide, by decide, by decide⟩, by decide, by decide⟩

theorem witness_TakeNeedsHighestEligibleSource :
    (withPwm 0 (pwm 0 true true)).eligible (.pwmA 0) = true ∧
      (withPwm 0 (pwm 0 true true)).enabled (.take (.pwmA 0)) = true := by decide

/-- I5 of spec/95. -/
theorem witness_EqualLevelsMayBeTakenInAnyOrder :
    let s := withPwm 0 (pwm 0 true true)
    s.takeable (.pwmA 0) = true ∧ s.eligible (.pwmB 0) = true ∧ s.sourceLevel (.pwmB 0) = s.sourceLevel (.pwmA 0) := by
  decide

/-- I4 of spec/95: a pending channel at level 0. -/
theorem witness_LevelZeroIsNeverTaken :
    let s := withTmr 2 { timer with priority := 0 }
    s.sourceLevel (.tmr 2) = 0 ∧ s.pending (.tmr 2) = true ∧ s.Live :=
  ⟨by decide, by decide, by decide, by decide⟩

theorem witness_InterruptEntrySavesOnlyStack :
    ((bound true).Live ∧ (bound true).takeable (.pcn 0) = true ∧ ∃ t, stepOn (.take (.pcn 0)) (bound true) = .next t) ∧
      (busy.takeable (.tmr 1) = true ∧ ∃ t, stepOn (.take (.tmr 1)) busy = .next t) ∧
      ((withPwm 0 (pwm 0 true false)).takeable (.pwmA 0) = true ∧
        ∃ t, stepOn (.take (.pwmA 0)) (withPwm 0 (pwm 0 true false)) = .next t) :=
  ⟨⟨⟨by decide, by decide⟩, by decide, next_of_some (by decide)⟩, ⟨by decide, next_of_some (by decide)⟩, by decide,
    next_of_some (by decide)⟩

/-- A dispatch past the flagged pin, before it, and before a flagged pin without a handler. -/
theorem witness_DispatchStepWalksFlaggedPins :
    (({ bound true with ctx := [.dispatch 0 4 4, .code .fg 0 none] } : State).Live ∧
      ∀ j : Index, 4 ≤ j.toNat → j.toNat < (bound true).cfg.nPin → ((bound true).pinAt 0 j).changeFlag = false) ∧
      (0 ≤ (3 : Index).toNat ∧ (3 : Index).toNat < (bound true).cfg.nPin ∧ ((bound true).pinAt 0 3).changeFlag = true ∧
        (∀ j' : Index, 0 ≤ j'.toNat → j'.toNat < (3 : Index).toNat → ((bound true).pinAt 0 j').changeFlag = false) ∧
        ((bound true).pinAt 0 3).handler ≠ 0) ∧
      (((bound false).setPin 0 15 ⟨.none, 0, true, none⟩).pinAt 0 15).changeFlag = true ∧
      (((bound false).setPin 0 15 ⟨.none, 0, true, none⟩).pinAt 0 15).handler = 0 ∧
      (∀ j' : Index, 4 ≤ j'.toNat → j'.toNat < (15 : Index).toNat →
        (((bound false).setPin 0 15 ⟨.none, 0, true, none⟩).pinAt 0 j').changeFlag = false) :=
  ⟨⟨⟨by decide, by decide⟩, by decide⟩, by decide, by decide, by decide, by decide⟩

theorem witness_ReturnResumesInterruptedContext :
    busy.Live ∧ ({ busy with ctx := [.code (.timerCB 1) 2 none, .code .fg 0 none] } : State).ctx =
        .code (.timerCB 1) 2 none :: [.code .fg 0 none] ∧
      ({ busy with ctx := [.code (.pinCB 0 3) 4 none, .dispatch 0 4 3, .code .fg 0 none] } : State).ctx =
        .code (.pinCB 0 3) 4 none :: .dispatch 0 4 3 :: [.code .fg 0 none] :=
  ⟨busy_live, rfl, rfl⟩

theorem witness_PinEdgeSetsFlagsWhenItMatches :
    busy.Live ∧ (1 : Index).toNat < busy.cfg.nPort ∧ (15 : Index).toNat < busy.cfg.nPin ∧
      ((busy.pinAt 0 3).edge = .rising ∧ (busy.pinAt 1 15).edge = .none) :=
  ⟨busy_live, by decide, by decide, by decide⟩

theorem witness_BoundEdgeInvokesHandlerOnce :
    (bound false).Live ∧ (0 : Index).toNat < (bound false).cfg.nPort ∧ (3 : Index).toNat < (bound false).cfg.nPin ∧
      edgeMatches ((bound false).pinAt 0 3).edge .rise = true ∧ ((bound false).pinAt 0 3).handler ≠ 0 ∧
      (∀ j, ((bound false).pinAt 0 j).changeFlag = false) ∧ ((bound false).portAt 0).flag = false ∧
      ((bound false).portAt 0).IE = true ∧
      (bound false).currentLevel.toNat < (bankGet (bound false).cfg.portPrio 0).toNat ∧
      ∀ src, (bound false).eligible src = false :=
  ⟨⟨by decide, by decide⟩, by decide, by decide, by decide, by decide, by decide, by decide, by decide, by decide,
    forall_source (by decide) (by decide) (by decide) (by decide)⟩

theorem witness_DutyConversionRoundsHalfUp : (65536 : BitVec 17).toNat ≤ 65536 ∧ (0 : BitVec 17).toNat ≤ 65536 := by decide

theorem witness_PwmPeriodIsClampedExactly :
    Config.vectors.wellFormed = true ∧ Config.vectors.rates[(0 : Word).toNat]? = some ⟨8, 8000⟩ ∧
      (2 : Word).toNat * (8 : Word).toNat = Config.vectors.pwmMin ∧
      Config.vectors.pwmMax ≤ (8192 : Word).toNat * (8 : Word).toNat ∧
      (Config.vectors.pwmMin ≤ (8191 : Word).toNat * (8 : Word).toNat ∧
        (8191 : Word).toNat * (8 : Word).toNat ≤ Config.vectors.pwmMax) := by
  decide

theorem witness_InvariantHoldsAtReset : Config.vectors.wellFormed = true := by decide

theorem witness_EveryStepKeepsInvariant :
    (offering busy .tick).Inv ∧ ∃ t, step (offering busy .tick) = .next t :=
  ⟨⟨by decide, busy_timers, busy_pwms, busy_pins, busy_stack, busy_frequency⟩, next_of_some (by decide)⟩

theorem witness_PwmChannelsStaySound :
    Config.vectors.wellFormed = true ∧ (offering busy .tick).PwmsConsistent ∧ ∃ t, step (offering busy .tick) = .next t :=
  ⟨by decide, busy_pwms, next_of_some (by decide)⟩

theorem witness_PinClaimsStayExclusive :
    Config.vectors.wellFormed = true ∧ (offering busy .tick).PinsExclusive ∧
      (∃ t, step (offering busy .tick) = .next t) ∧
      ∃ t : State, exec (.bind 1 15 3 9) busy = .next (t.okResult .bind 0) :=
  ⟨by decide, busy_pins, next_of_some (by decide), _, rfl⟩

theorem witness_ContextStackStaysSound :
    (StackSound (offering busy .tick).cfg (offering busy .tick).ctx ∧ ∃ t, step (offering busy .tick) = .next t) ∧
      StackSound Config.vectors (.code (.pinCB 0 15) 4 none :: .dispatch 0 4 15 :: .code (.timerCB 1) 2 none ::
        [.code .fg 0 none]) :=
  ⟨⟨busy_stack, next_of_some (by decide)⟩, 
    ⟨rfl, rfl, rfl, by decide, by decide, rfl, by decide, by decide, by decide, rfl⟩⟩

/-- PWM channel 0 runs at this count, nothing pending, with its pin at `level`. -/
def waveform (counter : Nat) (level : PinLevel) : State :=
  (withPwm 0 (pwm counter false false)).setPin 0 0 ⟨.none, 0, false, some level⟩

theorem witness_PromptWaveformIsHighForDutyCounts_start :
    (0 : Index).toNat < (withPwm 0 stoppedPwm).cfg.nPwm ∧ ((withPwm 0 stoppedPwm).pwmAt 0).pinMask ≠ 0 ∧
      ((withPwm 0 stoppedPwm).pwmAt 0).enabled = false ∧ ((withPwm 0 stoppedPwm).pwmAt 0).periodTicks ≥ 1 ∧
      ∃ t, exec (.pstart 0) (withPwm 0 stoppedPwm) = .next t :=
  ⟨by decide, by decide, by decide, by decide, next_of_some (by decide)⟩

/-- The count that reaches the compare value, and the count that rolls over. -/
theorem witness_PromptWaveformIsHighForDutyCounts_tick :
    ((waveform 19 .high).Live ∧ (0 : Index).toNat < (waveform 19 .high).cfg.nPwm ∧
      WaveformHolds 0 80 20 (waveform 19 .high) ∧ (waveform 19 .high).pwmQuiet 0 ∧
      ∃ t, stepOn .tick (waveform 19 .high) = .next t) ∧
      ((waveform 79 .low).Live ∧ WaveformHolds 0 80 20 (waveform 79 .low) ∧ (waveform 79 .low).pwmQuiet 0 ∧
        ∃ t, stepOn .tick (waveform 79 .low) = .next t) := by
  unfold WaveformHolds State.pwmQuiet
  exact ⟨⟨⟨by decide, by decide⟩, by decide, by decide, by decide, next_of_some (by decide)⟩,
    ⟨by decide, by decide⟩, by decide, by decide, next_of_some (by decide)⟩

/-- Event A pending, and event B pending, with the pin as it was before the event. -/
theorem witness_PromptWaveformIsHighForDutyCounts_service :
    (let s := (waveform 0 .low).setPwm 0 (pwm 0 true false);
      s.Live ∧ WaveformHolds 0 80 20 s ∧ s.takeable (.pwmA 0) = true ∧ ∃ t, stepOn (.take (.pwmA 0)) s = .next t) ∧
      (let s := (waveform 20 .high).setPwm 0 (pwm 20 false true);
        s.Live ∧ WaveformHolds 0 80 20 s ∧ s.takeable (.pwmB 0) = true ∧ ∃ t, stepOn (.take (.pwmB 0)) s = .next t) := by
  unfold WaveformHolds State.pwmQuiet
  exact ⟨⟨⟨by decide, by decide⟩, by decide, by decide, next_of_some (by decide)⟩,
    ⟨by decide, by decide⟩, by decide, by decide, next_of_some (by decide)⟩

/-- The service of a timer channel between two counts. -/
theorem witness_PromptWaveformIsHighForDutyCounts_other :
    let s := offering busy (.take (.tmr 1))
    s.Inv ∧ (0 : Index).toNat < s.cfg.nPwm ∧ WaveformHolds 0 80 20 s ∧ (∃ t, step s = .next t) ∧
      s.nextChoice.1 ≠ .tick ∧ ¬changesRunningPwm s.nextChoice.1 0 :=
  ⟨⟨by decide, busy_timers, busy_pwms, busy_pins, busy_stack, busy_frequency⟩, by decide,
    by unfold WaveformHolds State.pwmQuiet; decide, next_of_some (by decide), fun h => Event.noConfusion h,
    fun ⟨_, _, _, h, _⟩ => Event.noConfusion h⟩

end Sys2Proof.Tests.Slice0
end

section
/-! Proofs of the statements of spec/00_scope.md. What a configuration the check passes satisfies, and the step of one it
does not pass. -/

namespace Sys2Proof

theorem Config.nFreqOk_iff (c : Config) :
    c.nFreqOk = true ↔ 1 ≤ c.nFreq ∧ c.nFreq ≤ 2 ^ 32 - 1 ∧ c.rates.length = c.nFreq := by
  simp only [Config.nFreqOk, decide_eq_true_iff]

theorem Config.ratesOk_iff (c : Config) : c.ratesOk = true ↔ ∀ r ∈ c.rates, r.us ≠ 0 ∧ r.ms ≠ 0 := by
  simp only [Config.ratesOk, List.all_eq_true, decide_eq_true_iff]

theorem Config.pwmBoundsOk_iff (c : Config) :
    c.pwmBoundsOk = true ↔ 1 ≤ c.pwmMin ∧ c.pwmMin ≤ c.pwmMax ∧ c.pwmMax ≤ 2 ^ c.cntW - 1 := by
  simp only [Config.pwmBoundsOk, decide_eq_true_iff]

/-- The check of a configuration is the conjunction of its eight parts. -/
theorem Config.wellFormed_iff (c : Config) :
    c.wellFormed = true ↔
      c.cntWOk = true ∧ c.nTmrOk = true ∧ c.nPwmOk = true ∧ c.nPortOk = true ∧ c.nPinOk = true ∧ c.nFreqOk = true ∧
        c.ratesOk = true ∧ c.pwmBoundsOk = true := by
  simp only [Config.wellFormed, Bool.and_eq_true, and_assoc]

/-- R9: the frequency table of an admitted configuration has N_FREQ entries, none of them with a zero rate. -/
theorem Config.wellFormed_rates {c : Config} (h : c.wellFormed = true) :
    c.rates.length = c.nFreq ∧ ∀ r ∈ c.rates, r.us ≠ 0 ∧ r.ms ≠ 0 := by
  obtain ⟨-, -, -, -, -, hfreq, hrates, -⟩ := c.wellFormed_iff.1 h
  obtain ⟨-, -, hlen⟩ := c.nFreqOk_iff.1 hfreq
  exact ⟨hlen, c.ratesOk_iff.1 hrates⟩

/-- R9: the PWM bounds of an admitted configuration are in order and fit the counter. -/
theorem Config.wellFormed_pwmBounds {c : Config} (h : c.wellFormed = true) :
    1 ≤ c.pwmMin ∧ c.pwmMin ≤ c.pwmMax ∧ c.pwmMax ≤ 2 ^ c.cntW - 1 := by
  obtain ⟨-, -, -, -, -, -, -, hpwm⟩ := c.wellFormed_iff.1 h
  exact c.pwmBoundsOk_iff.1 hpwm

end Sys2Proof

namespace Sys2Proof.Machine

/-- R9: a configuration that does not pass the check is refused, whatever the rest of the state. -/
theorem step_of_not_wellFormed {s : State} (h : ¬s.cfg.wellFormed = true) : step s = .refused .badConfiguration := by
  rw [step, advance, if_neg h]

/-- Settles O8: each violated form contradicts a fact of every configuration that passes the check. -/
theorem badConfigurationIsRefused : Obligations.BadConfigurationIsRefused := by
  intro s bad
  refine step_of_not_wellFormed fun wf => ?_
  obtain ⟨hlen, hrates⟩ := Config.wellFormed_rates wf
  obtain ⟨-, hle, hfits⟩ := Config.wellFormed_pwmBounds wf
  rcases bad with len | ⟨r, hr, us | ms⟩ | order | wide
  · exact len hlen
  · exact (hrates r hr).1 us
  · exact (hrates r hr).2 ms
  · exact Nat.not_lt.2 hle order
  · exact Nat.not_lt.2 hfits wide

end Sys2Proof.Machine
end

section
/-! Proofs of the statements of spec/10_state.md: what a step can do to the millisecond clock, to a PWM channel and to
the claims and bindings of the pins, and the invariants that follow. -/

namespace Sys2Proof.Machine

variable {s t : State} {e : Event} {i : Instr}

/-! ### Steps -/

/-- R13: the step of an enabled choice is the choice's effect. -/
theorem perform_of_step (h : step s = .next t) (he : s.enabled s.nextChoice.1 = true) :
    perform s.nextChoice.1 s.nextChoice.2 = .next t := by
  rcases runEvent_cases (step_eq_next h).2 with ⟨hd, -⟩ | ⟨-, hp⟩
  · rw [enabled_nextChoice, he] at hd
    cases hd
  · exact hp

/-- What reading a choice keeps, and every effect in an admitted configuration without a model fault, every step keeps. -/
theorem step_keeps {P : State → Prop} (read : ∀ u : State, P u → P u.nextChoice.2)
    (effect : ∀ (u v : State) (e : Event), u.Live → P u → perform e u = .next v → P v)
    (hs : P s) (h : step s = .next t) : P t := by
  obtain ⟨⟨wf, nf⟩, hr⟩ := step_eq_next h
  rcases runEvent_cases hr with ⟨-, rfl⟩ | ⟨-, hp⟩
  · exact read s hs
  · exact effect _ t _ ⟨by simpa using wf, by simpa using nf⟩ (read s hs) hp

/-- R7: no effect changes the parameters. -/
theorem perform_cfg (h : perform e s = .next t) : t.cfg = s.cfg := by
  rcases perform_cases h with ⟨_, _, _, _, -, -, hx⟩ | ⟨_, _, _, -, -, rfl⟩ | ⟨-, rfl⟩ | ⟨_, -, rfl⟩ | ⟨_, -, rfl⟩ |
    ⟨_, -, rfl⟩ | ⟨_, -, rfl⟩ | ⟨-, rfl⟩ | ⟨-, rfl⟩ | ⟨-, rfl⟩ | ⟨_, _, _, -, rfl⟩ | ⟨_, _, -, rfl⟩
  · exact exec_cfg hx
  all_goals simp

/-- The choice `e` is a decoded command, and its meaning takes the state `s` to `t` (R270). -/
def RunsCommand (e : Event) (s t : State) : Prop :=
  ∃ w0 w1 w2 i, e = .issue w0 w1 w2 ∧ decode ⟨w0, w1, w2⟩ = .ok i ∧ exec i s = .next t

/-! ### The millisecond clock (R36, R37) -/

/-- R192: a Spin touches no counter of the millisecond clock; it may end the WAIT in progress. -/
theorem spin_ms (d : Word) (s : State) : (spin d s).ms = s.ms ∨ (spin d s).ms = { s.ms with isWaiting := false } := by
  unfold spin
  split
  · exact .inr rfl
  · exact .inl rfl

/-- The millisecond clock is written by a service of channel 0, a completing Spin, a TSTART of stopped channel 0 and a
WAIT (R154, R180, R184, R190, R192). -/
theorem perform_ms (h : perform e s = .next t) :
    t.ms = s.ms ∨
    (e = .take (.tmr 0) ∧ t.ms = s.ms.served) ∨
    (e = .spin ∧ t.ms = { s.ms with isWaiting := false }) ∨
    ∃ w0 w1 w2, e = .issue w0 w1 w2 ∧
      ((decode ⟨w0, w1, w2⟩ = .ok (.tstart 0) ∧ (s.tmrAt 0).enabled = false ∧
          t.ms = { s.ms with millisCounter := 0, waitCounter := 0 }) ∨
        ∃ d, decode ⟨w0, w1, w2⟩ = .ok (.wait d) ∧ t.ms = { s.ms with waitCounter := 0, isWaiting := true }) := by
  rcases perform_cases h with ⟨w0, w1, w2, _, he, hd, hx⟩ | ⟨_, _, _, -, -, rfl⟩ | ⟨-, rfl⟩ | ⟨c, rfl, rfl⟩ |
    ⟨_, -, rfl⟩ | ⟨_, -, rfl⟩ | ⟨_, -, rfl⟩ | ⟨-, rfl⟩ | ⟨-, rfl⟩ | ⟨he, rfl⟩ | ⟨_, _, _, -, rfl⟩ | ⟨_, _, -, rfl⟩
  · rcases exec_ms hx with hms | ⟨rfl, hoff, hms⟩ | ⟨d, rfl, hms⟩
    · exact .inl hms
    · exact .inr (.inr (.inr ⟨w0, w1, w2, he, .inl ⟨hd, hoff, hms⟩⟩))
    · exact .inr (.inr (.inr ⟨w0, w1, w2, he, .inr ⟨d, hd, hms⟩⟩))
  · exact .inl rfl
  · exact .inl (tick_ms s)
  · by_cases hc : c = 0
    · subst hc
      exact .inr (.inl ⟨rfl, ms_timerService 0⟩)
    · exact .inl (by rw [ms_timerService, if_neg hc])
  · exact .inl rfl
  · exact .inl (pwmServiceB_ms s _)
  · exact .inl rfl
  · exact .inl (dispatchStep_ms s)
  · exact .inl (returnFromCallback_ms s)
  · rcases spin_ms (s.spinning.getD 0) s with hms | hms
    · exact .inl hms
    · exact .inr (.inr (.inl ⟨he, hms⟩))
  · exact .inl (pinEdge_ms s _ _ _)
  · exact .inl rfl

/-- Settles O36: of the writers of the millisecond clock only the service of channel 0 and the TSTART of stopped channel
0 touch the millisecond counter. -/
theorem millisCounterChangesInTwoWays : Obligations.MillisCounterChangesInTwoWays := by
  intro s t h
  have ways : t.ms.millisCounter = s.ms.millisCounter ∨
      (s.nextChoice.1 = .take (.tmr 0) ∧ s.takeable (.tmr 0) = true ∧ t.ms.millisCounter = s.ms.millisCounter + 1) ∨
      (∃ w0 w1 w2, s.nextChoice.1 = .issue w0 w1 w2 ∧ decode ⟨w0, w1, w2⟩ = .ok (.tstart 0) ∧
        (s.tmrAt 0).enabled = false ∧ t.ms.millisCounter = 0) := by
    rcases runEvent_cases (step_eq_next h).2 with ⟨-, rfl⟩ | ⟨hen, hp⟩
    · exact .inl (by simp)
    rw [enabled_nextChoice] at hen
    rcases perform_ms hp with hms | ⟨he, hms⟩ | ⟨-, hms⟩ | ⟨w0, w1, w2, he, ⟨hd, hoff, hms⟩ | ⟨_, -, hms⟩⟩
    · exact .inl (by simp [hms])
    · exact .inr (.inl ⟨he, by rwa [he] at hen, by simp [hms, MsClock.served]⟩)
    · exact .inl (by simp [hms])
    · exact .inr (.inr ⟨w0, w1, w2, he, hd, by simpa using hoff, by rw [hms]⟩)
    · exact .inl (by simp [hms])
  refine ⟨ways, fun he htake => ?_, fun hon => ?_⟩
  · have hp := perform_of_step h (by rwa [he])
    rw [he] at hp
    rw [← Host.Outcome.next.inj hp]
    simp [service, ms_timerService, MsClock.served]
  · rcases ways with same | ⟨-, -, rise⟩ | ⟨_, _, _, -, -, hoff, -⟩
    · exact .inl same
    · exact .inr rise
    · rw [hon] at hoff
      cases hoff

/-! ### PWM channels (R38, R39) -/

@[simp] theorem State.resetWith_pwmAt (cfg : Config) (c : Index) : (State.resetWith cfg).pwmAt c = .reset :=
  bankGet_replicate ..

/-- Outside the commands, a PWM channel is written by a Tick and by its own two services (R215–R217). -/
theorem perform_pwmAt (h : perform e s = .next t) (c : Index) :
    RunsCommand e s t ∨
    t.pwmAt c = s.pwmAt c ∨
    (e = .tick ∧ t.pwmAt c = tickPwm (s.pwmAt c)) ∨
    (e = .take (.pwmA c) ∧ t.pwmAt c = { s.pwmAt c with IFA := false }) ∨
    (e = .take (.pwmB c) ∧ t.pwmAt c = { s.pwmAt c with IFB := false }) := by
  rcases perform_cases h with hx | ⟨_, _, _, -, -, rfl⟩ | ⟨he, rfl⟩ | ⟨_, -, rfl⟩ | ⟨k, he, rfl⟩ | ⟨k, he, rfl⟩ |
    ⟨_, -, rfl⟩ | ⟨-, rfl⟩ | ⟨-, rfl⟩ | ⟨-, rfl⟩ | ⟨_, _, _, -, rfl⟩ | ⟨_, _, -, rfl⟩
  · exact .inl hx
  · exact .inr (.inl rfl)
  · by_cases hc : c.toNat < s.cfg.nPwm
    · exact .inr (.inr (.inl ⟨he, by rw [State.pwmAt_tick, if_pos hc]⟩))
    · exact .inr (.inl (by rw [State.pwmAt_tick, if_neg hc]))
  · exact .inr (.inl (timerService_pwmAt s _ c))
  · by_cases hc : c = k
    · exact .inr (.inr (.inr (.inl ⟨hc ▸ he, by simp [pwmAt_pwmServiceA, hc]⟩)))
    · exact .inr (.inl (by rw [pwmAt_pwmServiceA, if_neg hc]))
  · by_cases hc : c = k
    · exact .inr (.inr (.inr (.inr ⟨hc ▸ he, by simp [pwmAt_pwmServiceB, hc]⟩)))
    · exact .inr (.inl (by rw [pwmAt_pwmServiceB, if_neg hc]))
  all_goals exact .inr (.inl (by simp))

/-- R215: a count ends within the period. -/
theorem PwmChannel.nextCount_lt {w : PwmChannel} (h : 1 ≤ w.periodTicks) : w.nextCount < w.periodTicks := by
  unfold PwmChannel.nextCount
  split <;> omega

/-- R201: a clamped period lies in the configuration's bounds. -/
theorem pwmPeriod_bounds {cfg : Config} (h : cfg.pwmMin ≤ cfg.pwmMax) (f : Word) (u : TimeUnit) (n : Word) :
    cfg.pwmMin ≤ pwmPeriod cfg f u n ∧ pwmPeriod cfg f u n ≤ cfg.pwmMax := by
  unfold pwmPeriod clamp
  omega

namespace PwmChannel.Consistent

variable {cfg : Config} {w : PwmChannel}

/-- R340: a PWM channel after reset. -/
theorem of_reset (cfg : Config) : PwmChannel.reset.Consistent cfg := by
  simp [PwmChannel.Consistent, PwmChannel.Sound, PwmChannel.reset, dutyTicksOf]

/-- R216: service A of the channel. -/
theorem clearA (h : w.Consistent cfg) : PwmChannel.Consistent cfg { w with IFA := false } := by
  obtain ⟨⟨hduty, hmask, hper, hcnt, hrun, hstop⟩, hrest⟩ := h
  exact ⟨⟨hduty, hmask, hper, hcnt, hrun, fun hoff => ⟨rfl, (hstop hoff).2⟩⟩, hrest⟩

/-- R217: service B of the channel. -/
theorem clearB (h : w.Consistent cfg) : PwmChannel.Consistent cfg { w with IFB := false } := by
  obtain ⟨⟨hduty, hmask, hper, hcnt, hrun, hstop⟩, hrest⟩ := h
  exact ⟨⟨hduty, hmask, hper, hcnt, hrun, fun hoff => ⟨(hstop hoff).1, rfl⟩⟩, hrest⟩

/-- R215: a count stays within the period, and a running channel is configured. -/
theorem tick (h : w.Consistent cfg) : (tickPwm w).Consistent cfg := by
  unfold tickPwm
  split
  case isFalse => exact h
  case isTrue hon =>
    obtain ⟨_, _, _, heq⟩ := pwmCount_eq w
    obtain ⟨⟨hduty, hmask, hper, -, hrun, -⟩, hfrac, hconv, hpin, -⟩ := h
    rw [heq]
    exact ⟨⟨hduty, hmask, hper, nextCount_lt (w := w), hrun, fun hoff => absurd hoff (by simp [hon])⟩, hfrac, hconv, hpin,
      fun hnone => absurd hnone (hrun hon)⟩

/-- R200, R201: PCFG of a stopped channel onto an existing pin. -/
theorem pcfg (h : w.Consistent cfg) (wf : cfg.wellFormed = true) (hoff : w.enabled = false) {port : Index} {k : Nat}
    (hport : port.toNat < cfg.nPort) (hk : k < 32) (hpin : k < cfg.nPin) (prio : Level) (f : Word) (u : TimeUnit)
    (per : Word) :
    PwmChannel.Consistent cfg { w with
      port := port, pinMask := 1#32 <<< k, periodTicks := pwmPeriod cfg f u per, priority := prio, counter := 0,
      dutyTicks := dutyTicksOf w.dutyFrac (pwmPeriod cfg f u per) } := by
  obtain ⟨⟨-, -, -, -, -, hstop⟩, hfrac, -, -, -⟩ := h
  obtain ⟨-, hle, -⟩ := Config.wellFormed_pwmBounds wf
  have hidx : maskIndex (1#32 <<< k) = k := maskIndex_shift ⟨k, hk⟩
  have hmask : (1#32 <<< k) ≠ 0#32 := shift_ne_zero ⟨k, hk⟩
  exact ⟨⟨dutyTicksOf_le hfrac _, .inr (popcount_shift ⟨k, hk⟩), fun _ => pwmPeriod_bounds hle f u per, id,
      fun hon => absurd hon (by simp [hoff]), hstop⟩,
    hfrac, rfl, fun _ => ⟨hport, by rwa [hidx]⟩, fun hnone => absurd hnone hmask⟩

/-- R210, R211: PDUTY, whose fraction is clamped to 65536. -/
theorem pduty (h : w.Consistent cfg) (d : Word) :
    PwmChannel.Consistent cfg { w with
      dutyFrac := clampDuty d, dutyTicks := dutyTicksOf (clampDuty d) w.periodTicks } := by
  obtain ⟨⟨-, hrest⟩, -, -, hpins⟩ := h
  have hfrac : (clampDuty d).toNat ≤ 65536 := by simp
  exact ⟨⟨dutyTicksOf_le hfrac _, hrest⟩, hfrac, rfl, hpins⟩

/-- R205: PSTART of a configured channel. -/
theorem pstart (h : w.Consistent cfg) (hmask : w.pinMask ≠ 0) :
    PwmChannel.Consistent cfg { w with counter := 0, IFA := false, IFB := false, missed := 0, enabled := true } := by
  obtain ⟨⟨hduty, hone, hper, -, -, -⟩, hfrac, hconv, hpin, -⟩ := h
  exact ⟨⟨hduty, hone, hper, id, fun _ => hmask, fun _ => ⟨rfl, rfl⟩⟩, hfrac, hconv, hpin,
    fun hnone => absurd hnone hmask⟩

/-- R206: PSTOP. -/
theorem pstop (h : w.Consistent cfg) :
    PwmChannel.Consistent cfg { w with enabled := false, IFA := false, IFB := false } := by
  obtain ⟨⟨hduty, hone, hper, hcnt, -, -⟩, hrest⟩ := h
  exact ⟨⟨hduty, hone, hper, hcnt, fun hon => absurd hon (by simp), fun _ => ⟨rfl, rfl⟩⟩, hrest⟩

end PwmChannel.Consistent

/-- R39: every command keeps a PWM channel's invariants. -/
theorem exec_keeps_pwm_consistent {c : Index} (wf : s.cfg.wellFormed = true) (hs : (s.pwmAt c).Consistent s.cfg)
    (h : exec i s = .next t) : (t.pwmAt c).Consistent s.cfg := by
  rcases exec_pwmAt (c := c) h with hw | ⟨port, prio, unit, per, f, k, -, hk, -, hoff, hport, hpin, -, -, -, hw⟩ |
    ⟨d, -, hw⟩ | ⟨-, hmask, -, hw⟩ | ⟨-, hw⟩
  all_goals rw [hw]
  · exact hs
  · exact hs.pcfg wf hoff hport hk hpin prio f unit per
  · exact hs.pduty d
  · exact hs.pstart hmask
  · exact hs.pstop

/-- R39: every effect keeps the invariants of every PWM channel. -/
theorem perform_keeps_pwmsConsistent (wf : s.cfg.wellFormed = true) (hs : s.PwmsConsistent)
    (h : perform e s = .next t) : t.PwmsConsistent := by
  intro c hc
  rw [perform_cfg h] at hc ⊢
  rcases perform_pwmAt h c with ⟨_, _, _, _, -, -, hx⟩ | hw | ⟨-, hw⟩ | ⟨-, hw⟩ | ⟨-, hw⟩
  · exact exec_keeps_pwm_consistent wf (hs c hc) hx
  all_goals rw [hw]
  · exact hs c hc
  · exact (hs c hc).tick
  · exact (hs c hc).clearA
  · exact (hs c hc).clearB

/-- Settles O57: the strengthened invariant holds of a reset channel, each writer of a channel keeps it, and it implies
items (a)–(f). -/
theorem pwmChannelsStaySound : Obligations.PwmChannelsStaySound := by
  refine ⟨fun cfg _ c _ => ?_, fun s t => step_keeps (fun u hu => ?_) fun u v e hl hu => ?_, fun s hs c hc => (hs c hc).1⟩
  · rw [State.resetWith_pwmAt]
    exact .of_reset cfg
  · simpa [State.PwmsConsistent] using hu
  · exact perform_keeps_pwmsConsistent hl.1 hu

/-! ### Claims and bindings of the pins (R43) -/

/-- Outside the commands no effect changes an edge mode. -/
theorem perform_edge (h : perform e s = .next t) :
    RunsCommand e s t ∨
    ∀ p j, (t.pinAt p j).edge = (s.pinAt p j).edge := by
  rcases perform_cases h with hx | ⟨_, _, _, -, -, rfl⟩ | ⟨-, rfl⟩ | ⟨_, -, rfl⟩ | ⟨_, -, rfl⟩ | ⟨_, -, rfl⟩ |
    ⟨_, -, rfl⟩ | ⟨-, rfl⟩ | ⟨-, rfl⟩ | ⟨-, rfl⟩ | ⟨_, _, _, -, rfl⟩ | ⟨_, _, -, rfl⟩
  · exact .inl hx
  all_goals refine .inr fun p j => ?_
  · simp
  · simp
  · simp
  · exact pwmServiceA_edge ..
  · exact pwmServiceB_edge ..
  · simp
  · exact dispatchStep_edge ..
  · exact returnFromCallback_edge ..
  · simp
  · exact pinEdge_edge ..
  · exact State.flagPin_edge ..

/-- Outside the commands no effect changes a claim. -/
theorem perform_claims (h : perform e s = .next t) (c : Index) :
    RunsCommand e s t ∨
    ∀ p n, (t.pwmAt c).claims p n = (s.pwmAt c).claims p n := by
  rcases perform_pwmAt h c with hx | hw | ⟨-, hw⟩ | ⟨-, hw⟩ | ⟨-, hw⟩
  · exact .inl hx
  all_goals
    refine .inr fun p n => ?_
    rw [hw]
  · obtain ⟨_, _, _, _, heq, -⟩ := tickPwm_eq (s.pwmAt c)
    rw [heq]
    rfl
  · rfl
  · rfl

/-- R202: a claim after a command was there before it, or is that of a PCFG which found the pin free. -/
theorem exec_claims {c p j : Index} (h : exec i s = .next t) (hc : (t.pwmAt c).claims p j.toNat = true) :
    (s.pwmAt c).claims p j.toNat = true ∨
    (s.pinFree c p j = true ∧ ∃ prio unit per m, i = .pcfg c p prio unit per m) := by
  rcases exec_pwmAt (c := c) h with hw | ⟨port, prio, unit, per, f, k, hi, hk, -, -, -, -, hfree, -, -, hw⟩ |
    ⟨_, -, hw⟩ | ⟨-, -, -, hw⟩ | ⟨-, hw⟩
  case inr.inl =>
    rw [hw, PwmChannel.claims_iff] at hc
    obtain ⟨-, rfl, hidx⟩ := hc
    have hkj : k = j.toNat := (maskIndex_shift ⟨k, hk⟩).symm.trans hidx
    have hj : BitVec.ofNat 4 k = j := by rw [hkj, BitVec.ofNat_toNat, BitVec.setWidth_eq]
    exact .inr ⟨hj ▸ hfree, prio, unit, per, _, hi⟩
  all_goals
    rw [hw] at hc
    exact .inl hc

/-- R202, R240: after a command, a pin that a PWM channel claims is not bound. -/
theorem exec_keeps_claimed_unbound {c p j : Index} (hs : s.PinsExclusive) (h : exec i s = .next t)
    (hc : c.toNat < s.cfg.nPwm) (hclaim : (t.pwmAt c).claims p j.toNat = true) : (t.pinAt p j).edge = .none := by
  rcases exec_claims h hclaim with hold | ⟨hfree, _, _, _, _, rfl⟩
  · rcases exec_edge h with same | ⟨p', n, _, _, rfl, hheld, -, same⟩
    · rw [same]
      exact hs.1 c p j hc hold
    · have hne : ¬(p = p' ∧ j = n) := by
        rintro ⟨rfl, rfl⟩
        have := (s.pwmHolds_iff p j.toNat).2 ⟨c, hc, hold⟩
        simp [hheld] at this
      rw [same p j hne]
      exact hs.1 c p j hc hold
  · rcases exec_edge h with same | ⟨_, _, _, _, hi, -⟩
    · rw [same]
      exact ((s.pinFree_iff c p j).1 hfree).1
    · cases hi

/-- R202: after a command, no two PWM channels claim the same pin. -/
theorem exec_keeps_claims_unique {c c' p j : Index} (hs : s.PinsExclusive) (h : exec i s = .next t)
    (hc : c.toNat < s.cfg.nPwm) (hc' : c'.toNat < s.cfg.nPwm) (hclaim : (t.pwmAt c).claims p j.toNat = true)
    (hclaim' : (t.pwmAt c').claims p j.toNat = true) : c = c' := by
  by_contra hne
  rcases exec_claims h hclaim with hold | ⟨hfree, _, _, _, _, rfl⟩ <;>
    rcases exec_claims h hclaim' with hold' | ⟨hfree', _, _, _, _, hi⟩
  · exact hne (hs.2 c c' p j hc hc' hold hold')
  · have := ((s.pinFree_iff c' p j).1 hfree').2 c hne hc
    simp [hold] at this
  · have := ((s.pinFree_iff c p j).1 hfree).2 c' (Ne.symm hne) hc'
    simp [hold'] at this
  · cases hi
    exact hne rfl

/-- R43: every effect keeps the pins exclusive. -/
theorem perform_keeps_pinsExclusive (hs : s.PinsExclusive) (h : perform e s = .next t) : t.PinsExclusive := by
  by_cases hx : RunsCommand e s t
  · obtain ⟨_, _, _, i, -, -, hx⟩ := hx
    unfold State.PinsExclusive
    rw [exec_cfg hx]
    exact ⟨fun _ _ _ => exec_keeps_claimed_unbound hs hx, fun _ _ _ _ => exec_keeps_claims_unique hs hx⟩
  · have edges := (perform_edge h).resolve_left hx
    have claims := fun c => (perform_claims h c).resolve_left hx
    simpa only [State.PinsExclusive, perform_cfg h, edges, claims] using hs

/-- R240: a BIND fails with a non-OK status, or writes the pin's one slot and its port. -/
theorem exec_bind_cases {p j : Index} {edge : BitVec 2} {hd : HandlerId} (h : exec (.bind p j edge hd) s = .next t) :
    (∃ st, st ≠ .ok ∧ t = s.errResult .bind st) ∨
    t = ((s.setPin p j { s.pinAt p j with changeFlag := false, edge := decodeEdge edge, handler := hd }).setPort p
      { s.portAt p with flag := false, IE := true }).okResult .bind 0 := by
  simp only [exec, execBind, finish_ok, fail_configErr, fail_conflictErr] at h
  split_ifs at h
  all_goals cases h
  · exact .inl ⟨.configErr, by decide, rfl⟩
  · exact .inl ⟨.configErr, by decide, rfl⟩
  · exact .inl ⟨.conflictErr, by decide, rfl⟩
  · exact .inr rfl

/-- R272: the log tells a failed completion from a successful one. -/
theorem errResult_ne_okResult {o : Opcode} {st : Status} {v : Word} (hst : st ≠ .ok) :
    s.errResult o st ≠ t.okResult o v := by
  intro heq
  have hlog : s.events ++ [.result (.op o) st 0] = t.events ++ [.result (.op o) .ok v] := congrArg State.events heq
  obtain ⟨-, hlast⟩ := List.append_inj' hlog rfl
  cases hlast
  exact hst rfl

/-- R43, R240: a successful BIND replaces the pin's handler. -/
theorem handler_of_exec_bind {p j : Index} {edge : BitVec 2} {hd : HandlerId}
    (h : exec (.bind p j edge hd) s = .next (t.okResult .bind 0)) : (t.pinAt p j).handler = hd := by
  rcases exec_bind_cases h with ⟨st, hst, heq⟩ | heq
  · exact absurd heq.symm (errResult_ne_okResult hst)
  · have hpin : (t.okResult .bind 0).pinAt p j = t.pinAt p j := rfl
    rw [← hpin, heq]
    exact congrArg Pin.handler (s.pinAt_setPin_same p j _)

/-- Settles O58: a channel gains a claim only by a PCFG that found the pin free, and a pin gains a binding only by a BIND
that found no claim of it. -/
theorem pinClaimsStayExclusive : Obligations.PinClaimsStayExclusive := by
  refine ⟨fun cfg _ => ?_, fun s t => step_keeps (fun u hu => ?_) fun u v e _ hu => ?_, fun s t p i e hd h => ?_⟩
  · have noClaim : ∀ (c p : Index) (n : Nat), ((State.resetWith cfg).pwmAt c).claims p n ≠ true := by
      simp [PwmChannel.claims, PwmChannel.reset]
    exact ⟨fun c p i _ hclaim => absurd hclaim (noClaim c p _), fun c _ p i _ _ hclaim _ => absurd hclaim (noClaim c p _)⟩
  · simpa [State.PinsExclusive] using hu
  · exact perform_keeps_pinsExclusive hu
  · exact handler_of_exec_bind h

end Sys2Proof.Machine
end

section
/-! Proofs of the statements of spec/30_encoding.md: a command is read back from its words and from their bytes (R109),
decoding and the match/mask table of R105 are the same test of the header's fields, and words that decode to no command
complete as ILLEGAL (R104). -/

namespace Sys2Proof

/-! ### Encoding and back -/

/-- R103, R105: words that hold a row's OP and no stray field decode to the command of that row. -/
theorem decode_of_row {c : Command} {o : Opcode} (hop : Opcode.ofCode (Header.ofWord c.w0).op = some o)
    (hstray : (Header.ofWord c.w0).strayFree o.fields = true) :
    decode c = .ok (o.build (Header.ofWord c.w0) c.w1 c.w2) := by
  simp only [decode, hop, hstray, if_true]

/-- R109: every command's header and operand words are those of its row. -/
theorem Laws.RowOf.of_instr : ∀ i : Instr, Laws.RowOf.Statement i
  | .nop => nop
  | .setfreq .. => setfreq ..
  | .getfreq => getfreq
  | .getrate .. => getrate ..
  | .tcfg .. => tcfg ..
  | .tstart .. => tstart ..
  | .tstop .. => tstop ..
  | .tsetiv .. => tsetiv ..
  | .tmiss .. => tmiss ..
  | .millis => millis
  | .wait .. => wait ..
  | .pcfg .. => pcfg ..
  | .pduty .. => pduty ..
  | .pstart .. => pstart ..
  | .pstop .. => pstop ..
  | .pmiss .. => pmiss ..
  | .bind .. => bind ..
  | .spur .. => spur ..
  | .rderr => rderr

/-- R109, as words. -/
theorem decode_encode (i : Instr) : decode (encode i) = .ok i := by
  obtain ⟨hop, hstray, hbuild⟩ := Laws.RowOf.of_instr i
  have hread : Header.ofWord (encode i).w0 = i.header := Header.ofWord_toWord _
  rw [decode_of_row (by rwa [hread]) (by rwa [hread]), hread]
  exact congrArg Decoded.ok hbuild

/-- R81, R82: the twelve bytes of a command are decoded as its three words, and the bytes after them are left. -/
theorem decodeBytes_bytes (c : Command) (rest : List Byte) : decodeBytes (c.bytes ++ rest) = (decode c, rest) := by
  simp only [Command.bytes, wordBytes, List.cons_append, List.nil_append, decodeBytes, wordOfBytes_wordBytes]

/-- Settles O1: the header written by the encoder is read back field by field, its row of R103 builds the command from
it, and the bytes give back the words. -/
theorem decodeOfEncodeIsIdentity : Obligations.DecodeOfEncodeIsIdentity := fun i rest =>
  ⟨decode_encode i, by rw [decodeBytes_bytes, decode_encode]⟩

/-! ### The match/mask table (R105) -/

/-- The bitwise conjunction of two headers, field by field. -/
def Header.and (g h : Header) : Header where
  op := g.op &&& h.op
  ch := g.ch &&& h.ch
  port := g.port &&& h.port
  pin := g.pin &&& h.pin
  prio := g.prio &&& h.prio
  unit := g.unit &&& h.unit
  edge := g.edge &&& h.edge
  handler := g.handler &&& h.handler

/-- R105: the mask of one field: no bit of a field the row uses, every bit of one it does not use. -/
def fieldMask (n : Nat) (used : Bool) : BitVec n := if used then 0#n else BitVec.allOnes n

/-- R105: the mask of a row by header fields: all bits of OP and of every field the row does not use. -/
def UsedFields.mask (u : UsedFields) : Header where
  op := BitVec.allOnes 6
  ch := fieldMask 4 u.ch
  port := fieldMask 4 u.port
  pin := fieldMask 4 u.pin
  prio := fieldMask 3 u.prio
  unit := fieldMask 1 u.unit
  edge := fieldMask 2 u.edge
  handler := fieldMask 8 u.handler

/-- R101: the fields are bit slices, so a bitwise conjunction is taken field by field. -/
theorem Header.ofWord_and (v w : Word) : Header.ofWord (v &&& w) = (Header.ofWord v).and (Header.ofWord w) := by
  simp only [Header.ofWord, Header.and, BitVec.extractLsb'_and]

/-- R105: the table's mask column is the mask of the fields the row does not use. -/
theorem Opcode.ofWord_mask (o : Opcode) : Header.ofWord o.mask = o.fields.mask := by cases o <;> rfl

/-- R105: the table's match column is the header with the row's OP and every field zero. -/
theorem Opcode.ofWord_pattern (o : Opcode) : Header.ofWord o.pattern = o.header := by cases o <;> rfl

/-- R105: a masked field is zero exactly when the row uses the field or the field is zero. -/
theorem and_fieldMask_eq_zero {n : Nat} (x : BitVec n) (used : Bool) :
    x &&& fieldMask n used = 0#n ↔ (used || x == 0#n) = true := by
  cases used <;> simp [fieldMask]

/-- R105: a header under its row's mask is the row's match exactly when it has the row's OP and no stray field. -/
theorem Header.and_mask_eq_header (h : Header) (o : Opcode) :
    h.and o.fields.mask = o.header ↔ h.op = o.code ∧ h.strayFree o.fields = true := by
  simp only [Header.and, UsedFields.mask, Opcode.header, Header.mk.injEq, BitVec.and_allOnes, BitVec.ofNat_eq_ofNat,
    and_fieldMask_eq_zero, Header.strayFree, Bool.and_eq_true, and_assoc]

/-- R103: each row has one OP and each OP at most one row. -/
theorem Opcode.ofCode_eq_some (op : BitVec 6) (o : Opcode) : Opcode.ofCode op = some o ↔ op = o.code :=
  ⟨Opcode.code_of_ofCode, fun h => h ▸ Opcode.ofCode_code o⟩

/-- R105: W0 matches a row of the table exactly when it holds the row's OP and no stray field. -/
theorem Opcode.match_iff (o : Opcode) (w0 : Word) :
    w0 &&& o.mask = o.pattern ↔
      (Header.ofWord w0).op = o.code ∧ (Header.ofWord w0).strayFree o.fields = true := by
  rw [← Header.and_mask_eq_header, ← Opcode.ofWord_mask, ← Opcode.ofWord_pattern, ← Header.ofWord_and]
  exact ⟨congrArg Header.ofWord, Header.ofWord_injective⟩

/-- R105: words decode to a command of a row exactly when W0 matches the row. -/
theorem decode_ok_row_iff (c : Command) (o : Opcode) :
    (∃ i, decode c = .ok i ∧ i.opcode = o) ↔ c.w0 &&& o.mask = o.pattern := by
  rw [Opcode.match_iff, ← Opcode.ofCode_eq_some]
  constructor
  · rintro ⟨i, hi, rfl⟩
    obtain ⟨o, hop, hstray, rfl⟩ := decode_eq_ok hi
    rw [Opcode.opcode_build]
    exact ⟨hop, hstray⟩
  · rintro ⟨hop, hstray⟩
    exact ⟨_, decode_of_row hop hstray, Opcode.opcode_build ..⟩

/-- R103, R105: rows that match the same W0 have its OP in common, and each OP has one row. -/
theorem Opcode.match_unique {o o' : Opcode} {w0 : Word} (h : w0 &&& o.mask = o.pattern)
    (h' : w0 &&& o'.mask = o'.pattern) : o = o' := by
  have hop := (Opcode.ofCode_eq_some ..).2 ((o.match_iff w0).1 h).1
  have hop' := (Opcode.ofCode_eq_some ..).2 ((o'.match_iff w0).1 h').1
  exact Option.some.inj (hop.symm.trans hop')

/-! ### Illegal commands (R104, R277) -/

/-- R104: an OP without a row is reported as reserved. -/
theorem decode_of_ofCode_eq_none {c : Command} (h : Opcode.ofCode (Header.ofWord c.w0).op = none) :
    decode c = .reservedOpcode (Header.ofWord c.w0).op := by
  simp only [decode, h]

/-- R103, R104: no row has one of the reserved OP values. -/
theorem Opcode.code_not_reserved (o : Opcode) :
    ¬(o.code.toNat ∈ ([0x04, 0x05, 0x06, 0x07, 0x0D, 0x0E, 0x0F, 0x12, 0x13, 0x14, 0x15, 0x16, 0x17,
      0x1D, 0x1E, 0x1F, 0x22, 0x23, 0x24, 0x25, 0x26, 0x27] : List Nat) ∨ 0x29 ≤ o.code.toNat) := by
  cases o <;> decide

/-- R273: NOP is the only command of its row. -/
theorem Instr.opcode_eq_nop (i : Instr) : i.opcode = .nop ↔ i = .nop := by
  cases i <;> simp [Instr.opcode]

/-- R105, R273: NOP's mask holds every bit of W0, so its row has the zero word alone. -/
theorem Opcode.nop_match_iff (w0 : Word) : w0 &&& Opcode.nop.mask = Opcode.nop.pattern ↔ w0 = 0 := by
  have hmask : Opcode.nop.mask = BitVec.allOnes 32 := rfl
  rw [hmask, BitVec.and_allOnes]
  rfl

/-- R104, R277: words that decode to no command write the last-error flag and the log and nothing else. -/
theorem issue_of_no_command {c : Command} (h : ∀ i, decode c ≠ .ok i) (s : Machine.State) :
    Machine.issue c s =
      .next { s with lastError := .illegal, events := s.events ++ [.result .illegalCmd .illegal 0] } := by
  rcases Machine.issue_cases c s with ⟨i, hi, -⟩ | ⟨-, hissue⟩
  · exact absurd hi (h i)
  · exact hissue

/-- Settles O3: decoding and the table test the same fields of W0, and a W0 outside every row decodes to no command. -/
theorem decodeAgreesWithPatternTable : Obligations.DecodeAgreesWithPatternTable :=
  ⟨decode_ok_row_iff, fun _ _ _ => Opcode.match_unique, fun c s hnone =>
    issue_of_no_command (fun i hi => hnone i.opcode ((decode_ok_row_iff c _).1 ⟨i, hi, rfl⟩)) s⟩

/-- Settles O5: a reserved OP is the code of no row, and NOP's row is the one whose pattern leaves no bit of W0 free. -/
theorem illegalCommandChangesOnlyLastError : Obligations.IllegalCommandChangesOnlyLastError := by
  refine ⟨fun c hres => ?_, fun c s h => issue_of_no_command h s, fun c => ?_⟩
  · refine decode_of_ofCode_eq_none (Option.eq_none_iff_forall_ne_some.2 fun o ho => o.code_not_reserved ?_)
    have hop : c.w0.toNat % 64 = o.code.toNat := by
      rw [← Opcode.code_of_ofCode ho]
      simp [Header.ofWord, BitVec.extractLsb'_toNat]
    rwa [← hop]
  · rw [← Opcode.nop_match_iff, ← decode_ok_row_iff]
    simp only [Instr.opcode_eq_nop, exists_eq_right]

end Sys2Proof
end

section
/-! Proofs of the statements of spec/40_clock_rate_table.md: the words of SETFREQ, GETFREQ and GETRATE, and the outcomes
of each command. -/

namespace Sys2Proof

/-- R105: a command's header with any operand words decodes to the row's command of those words; a word the row does not
use is ignored. -/
theorem decode_header (i : Instr) (w1 w2 : Word) :
    decode ⟨i.header.toWord, w1, w2⟩ = .ok (i.opcode.build i.header w1 w2) := by
  obtain ⟨hop, hstray, -⟩ := Laws.RowOf.of_instr i
  have hread : Header.ofWord i.header.toWord = i.header := Header.ofWord_toWord _
  rw [decode_of_row (by rwa [hread]) (by rwa [hread]), hread]

/-- R130: every rate of an entry of an admitted configuration's table is at least 1. -/
theorem Config.rate_pos {c : Config} {n : Nat} {r : Rate} (wf : c.wellFormed = true) (hr : c.rates[n]? = some r) :
    1 ≤ r.us.toNat ∧ 1 ≤ r.ms.toNat := by
  obtain ⟨hus, hms⟩ := (Config.wellFormed_rates wf).2 r (List.mem_of_getElem? hr)
  exact ⟨BitVec.toNat_pos_of_ne_zero hus, BitVec.toNat_pos_of_ne_zero hms⟩

end Sys2Proof

namespace Sys2Proof.Machine

variable {s : State}

/-! ### SETFREQ (R132) -/

/-- R132: the checks of SETFREQ in their order, each with the outcome it answers. -/
theorem exec_setfreq (sel : Word) (s : State) :
    exec (.setfreq sel) s =
      if sel.toNat ≥ s.cfg.nFreq then .next (s.errResult .setfreq .configErr)
      else if s.freqSel = some sel then .next (s.okResult .setfreq 0)
      else if s.anyConfigured then .next (s.faulted .freqChangeAfterConfigure)
      else .next ({ s with freqSel := some sel }.okResult .setfreq 0) := rfl

/-- Settles O14: each clause's premises fail the checks before its own and pass its own. The index stands in W1, so the
header is that of any SETFREQ. -/
theorem setfreqSelectsOrFaults : Obligations.SetfreqSelectsOrFaults := by
  refine ⟨decode_header (.setfreq 0), fun s sel => ⟨fun hout => ?_, fun hin hsel => ?_,
    fun hin hsel hconf => ?_, fun hin hsel hconf => ?_⟩⟩
  · rw [exec_setfreq, if_pos hout]
  · rw [exec_setfreq, if_neg (Nat.not_le.2 hin), if_pos hsel]
  · rw [exec_setfreq, if_neg (Nat.not_le.2 hin), if_neg hsel, if_pos (s.anyConfigured_iff.2 hconf)]
  · rw [exec_setfreq, if_neg (Nat.not_le.2 hin), if_neg hsel, if_neg (mt s.anyConfigured_iff.1 hconf)]

/-! ### GETFREQ (R133) -/

theorem exec_getfreq_of_some {f : Word} (h : s.freqSel = some f) :
    exec .getfreq s = .next (s.okResult .getfreq f) := by
  simp only [exec, execGetfreq, h, finish_ok]

theorem exec_getfreq_of_none (h : s.freqSel = none) :
    exec .getfreq s = .next (s.errResult .getfreq .configErr) := by
  simp only [exec, execGetfreq, h, fail_configErr]

/-- Settles O15: the frequency is selected or it is not. -/
theorem getfreqReadsSelection : Obligations.GetfreqReadsSelection :=
  ⟨decode_header .getfreq, fun _ => ⟨fun _ => exec_getfreq_of_some, exec_getfreq_of_none⟩⟩

/-! ### GETRATE (R134) -/

theorem exec_getrate_of_some {f : Word} (u : TimeUnit) (h : s.freqSel = some f) :
    exec (.getrate u) s = .next (s.okResult .getrate (rate s.cfg f u)) := by
  simp only [exec, execGetrate, h, finish_ok]

theorem exec_getrate_of_none (u : TimeUnit) (h : s.freqSel = none) :
    exec (.getrate u) s = .next (s.errResult .getrate .configErr) := by
  simp only [exec, execGetrate, h, fail_configErr]

/-- Settles O16: the value is the lookup's, the lookup answers the table's entry, and an admitted table holds no zero
rate. -/
theorem getrateReadsTableEntry : Obligations.GetrateReadsTableEntry := by
  refine ⟨decode_header (.getrate .us), decode_header (.getrate .ms), fun s u =>
    ⟨fun f r hsel hentry => ⟨?_, fun wf => Config.rate_pos wf hentry⟩, exec_getrate_of_none u⟩⟩
  rw [exec_getrate_of_some u hsel, rate_eq u hentry]
  cases u <;> rfl

end Sys2Proof.Machine
end

section
/-! Proofs of the statements of spec/41_countdown_timer_engine.md: the words of TCFG, TSETIV, TSTART and TSTOP, the
outcomes of each command, and the frame of a write to one timer channel. -/

namespace Sys2Proof

/-- R101: W0 of a command that uses no field but CH, with the unused fields above it taken together. -/
theorem Header.toWord_channel (op : BitVec 6) (ch : Index) :
    0#22 ++ ch ++ op = Header.toWord ⟨op, ch, 0, 0, 0, 0, 0, 0⟩ := by
  have hzero : 0#22 = 0#8 ++ 0#2 ++ 0#1 ++ 0#3 ++ 0#4 ++ 0#4 := rfl
  rw [hzero]
  rfl

/-- R101: the unused fields PIN and PORT lie side by side in W0. -/
theorem append_zero_pin_port {n : Nat} (x : BitVec n) : x ++ 0#8 = x ++ 0#4 ++ 0#4 :=
  (BitVec.append_assoc (x₁ := x) (x₂ := 0#4) (x₃ := 0#4)).symm

/-- R101: W0 of a command that uses CH, PRIO, UNIT and HANDLER, with the unused PIN and PORT taken together. -/
theorem Header.toWord_tcfg (op : BitVec 6) (ch : Index) (prio : Level) (unit : BitVec 1) (h : HandlerId) :
    h ++ 0#2 ++ unit ++ prio ++ 0#8 ++ ch ++ op = Header.toWord ⟨op, ch, 0, 0, prio, unit, 0, h⟩ := by
  rw [append_zero_pin_port]
  rfl

end Sys2Proof

namespace Sys2Proof.Machine

variable {s : State}

/-! ### Shared by the timer commands -/

/-- R12: writing one timer channel leaves the other channels and the rest of the state as they are. -/
theorem State.setTmr_frame (s : State) (ch : Index) (x : TimerChannel) :
    s.setTmr ch x = { s with tmr := (s.setTmr ch x).tmr } ∧ s.TimersAgreeExcept (s.setTmr ch x) ch ∧
      (s.setTmr ch x).tmrAt ch = x :=
  ⟨rfl, fun _ hne => s.tmrAt_setTmr_other ch _ x hne, s.tmrAt_setTmr_same ch x⟩

/-- R312: the service of a masked source cannot begin. -/
theorem State.takeable_eq_false_of_masked {src : Source} (h : s.unmasked src = false) : s.takeable src = false := by
  refine Bool.eq_false_iff.2 fun htake => ?_
  obtain ⟨-, -, hunmasked, -⟩ := (s.eligible_iff src).1 ((s.takeable_iff src).1 htake).1
  rw [h] at hunmasked
  cases hunmasked

/-! ### TCFG (R150, R151) -/

section Tcfg

variable {ch : Index} {f : Word} (prio : Level) (unit : TimeUnit) (hd : HandlerId) (iv ps : Word)

theorem exec_tcfg_of_missing (hout : ch.toNat ≥ s.cfg.nTmr) :
    exec (.tcfg ch prio unit hd iv ps) s = .next (s.errResult .tcfg .configErr) := by
  simp only [exec, execTcfg, if_pos hout, fail_configErr]

theorem exec_tcfg_of_none (hin : ch.toNat < s.cfg.nTmr) (hf : s.freqSel = none) :
    exec (.tcfg ch prio unit hd iv ps) s = .next (s.faulted .freqUnset) := by
  simp only [exec, execTcfg, if_neg (Nat.not_le.2 hin), hf, raiseFault_next]

/-- R150: the checks of TCFG that come after the selected frequency, with those that answer CONFIG_ERR taken
together. -/
theorem exec_tcfg_of_some (hin : ch.toNat < s.cfg.nTmr) (hf : s.freqSel = some f) :
    exec (.tcfg ch prio unit hd iv ps) s =
      if (s.tmrAt ch).enabled then .next (s.faulted .reconfigureWhileRunning)
      else if ticksFor s.cfg f unit iv = 0 ∨ ticksFor s.cfg f unit iv > maxCount s.cfg ∨ ps = 0 ∨
          (ch = 0 ∧ ¬(unit = .ms ∧ iv = 1 ∧ ps = 1)) then .next (s.errResult .tcfg .configErr)
      else .next ((s.setTmr ch { s.tmrAt ch with
        periodTicks := ticksFor s.cfg f unit iv, softCountMax := ps, callback := hd, priority := prio,
        counter := 0 }).okResult .tcfg 0) := by
  simp only [exec, execTcfg, if_neg (Nat.not_le.2 hin), hf, ite_or, raiseFault_next, fail_configErr, finish_ok]

end Tcfg

/-- Settles O17: each clause's premises fail the checks before its own and pass its own, and the count is the exact
product with the selected table entry. -/
theorem tcfgConfiguresStoppedChannel : Obligations.TcfgConfiguresStoppedChannel := by
  refine ⟨fun ch prio unit h w1 w2 => ?_, fun s ch prio unit h iv ps =>
    ⟨exec_tcfg_of_missing prio unit h iv ps, exec_tcfg_of_none prio unit h iv ps, fun hin hsel hon => ?_,
      fun f r hin hf hr hoff hbad => ?_, fun f r hin hf hr hoff hpos hmax hps hzero => ?_⟩⟩
  · rw [Header.toWord_tcfg]
    exact decode_encode (.tcfg ch prio unit h w1 w2)
  · obtain ⟨f, hf⟩ := Option.ne_none_iff_exists'.1 hsel
    rw [exec_tcfg_of_some prio unit h iv ps hin hf, if_pos hon]
  · rw [exec_tcfg_of_some prio unit h iv ps hin hf, if_neg (Bool.eq_false_iff.1 hoff), ticksFor_eq unit iv hr]
    exact if_pos hbad
  · rw [exec_tcfg_of_some prio unit h iv ps hin hf, if_neg (Bool.eq_false_iff.1 hoff), ticksFor_eq unit iv hr]
    refine ⟨_, if_neg ?_, s.setTmr_frame ch _⟩
    rintro (hz | hbig | hps0 | ⟨hch, hform⟩)
    · exact Nat.ne_of_gt hpos hz
    · exact Nat.not_lt.2 hmax hbig
    · exact hps hps0
    · exact hform (hzero hch)

/-! ### TSETIV (R152) -/

/-- R152: the checks of TSETIV, all of which answer CONFIG_ERR. -/
theorem exec_tsetiv (ch : Index) (ps : Word) (s : State) :
    exec (.tsetiv ch ps) s =
      if ch.toNat ≥ s.cfg.nTmr ∨ (s.tmrAt ch).periodTicks = 0 ∨ ch = 0 ∨ ps = 0 then
        .next (s.errResult .tsetiv .configErr)
      else .next ((s.setTmr ch { s.tmrAt ch with softCountMax := ps }).okResult .tsetiv 0) := by
  simp only [exec, execTsetiv, ite_or, fail_configErr, finish_ok]

/-- Settles O18: the command is rejected or writes the one field, and no check reads `enabled`. -/
theorem tsetivChangesOnlyPostscale : Obligations.TsetivChangesOnlyPostscale := by
  refine ⟨fun ch w1 w2 => ?_, fun s ch ps => ⟨fun hbad => ?_, fun hin hper hch hps => ?_⟩⟩
  · rw [Header.toWord_channel]
    exact decode_header (.tsetiv ch w1) w1 w2
  · rw [exec_tsetiv, if_pos hbad]
  · have hpass : ¬(ch.toNat ≥ s.cfg.nTmr ∨ (s.tmrAt ch).periodTicks = 0 ∨ ch = 0 ∨ ps = 0) := by
      simp only [not_or]
      exact ⟨Nat.not_le.2 hin, hper, hch, hps⟩
    rw [exec_tsetiv, if_neg hpass]
    exact ⟨_, rfl, s.setTmr_frame ch _⟩

/-! ### TSTART (R153, R154) -/

/-- R154: TSTART of channel 0 also zeroes the millisecond clock's counters, in that field only. -/
theorem State.zeroMillis_ite (s : State) (ch : Index) :
    (if ch = 0 then s.zeroMillis else s) =
      { s with ms := if ch = 0 then { s.ms with millisCounter := 0, waitCounter := 0 } else s.ms } := by
  split
  · rfl
  · rfl

/-- R153, R154: the checks of TSTART in their order, each with the outcome it answers. -/
theorem exec_tstart (ch : Index) (s : State) :
    exec (.tstart ch) s =
      if ch.toNat ≥ s.cfg.nTmr ∨ (s.tmrAt ch).periodTicks = 0 then .next (s.errResult .tstart .configErr)
      else if (s.tmrAt ch).enabled then .next (s.okResult .tstart 0)
      else .next (({ s with
          ms := if ch = 0 then { s.ms with millisCounter := 0, waitCounter := 0 } else s.ms }.setTmr ch
        { s.tmrAt ch with counter := 0, softCounter := 0, missed := 0, IF := false, enabled := true }).okResult
          .tstart 0) := by
  rw [← s.zeroMillis_ite ch]
  rfl

/-- Settles O19: a running channel is left alone, and the start of a stopped one writes that channel and, on channel 0,
the millisecond clock. -/
theorem tstartArmsStoppedChannel : Obligations.TstartArmsStoppedChannel := by
  refine ⟨fun ch w1 w2 => ?_, fun s ch => ⟨fun hbad => ?_, fun hin hper hon => ?_, fun hin hper hoff => ?_⟩⟩
  · rw [Header.toWord_channel]
    exact decode_header (.tstart ch) w1 w2
  · rw [exec_tstart, if_pos hbad]
  · rw [exec_tstart, if_neg (not_or.2 ⟨Nat.not_le.2 hin, hper⟩), if_pos hon]
  · rw [exec_tstart, if_neg (not_or.2 ⟨Nat.not_le.2 hin, hper⟩), if_neg (Bool.eq_false_iff.1 hoff)]
    exact ⟨_, rfl, rfl, fun _ hne => State.tmrAt_setTmr_other _ ch _ _ hne, State.tmrAt_setTmr_same _ ch _, rfl⟩

/-! ### TSTOP (R155) -/

theorem exec_tstop (ch : Index) (s : State) :
    exec (.tstop ch) s =
      if ch.toNat ≥ s.cfg.nTmr then .next (s.errResult .tstop .configErr)
      else .next ((s.setTmr ch { s.tmrAt ch with enabled := false, IF := false }).okResult .tstop 0) := rfl

/-- Settles O20: the stopped channel is masked, so its service cannot begin. -/
theorem tstopDiscardsPendingEvent : Obligations.TstopDiscardsPendingEvent := by
  refine ⟨fun ch w1 w2 => ?_, fun s ch => ⟨fun hout => ?_, fun hin => ?_⟩⟩
  · rw [Header.toWord_channel]
    exact decode_header (.tstop ch) w1 w2
  · rw [exec_tstop, if_pos hout]
  · obtain ⟨hframe, hothers, hstopped⟩ := s.setTmr_frame ch { s.tmrAt ch with enabled := false, IF := false }
    rw [exec_tstop, if_neg (Nat.not_le.2 hin)]
    exact ⟨_, rfl, hframe, hothers, hstopped,
      State.takeable_eq_false_of_masked (congrArg TimerChannel.enabled hstopped)⟩

end Sys2Proof.Machine
end

section
/-! Proofs of the statements of spec/42_periodic_postscale_counter.md: the timer service, the outcomes of MILLIS and
WAIT, and the steps of a spinning context. -/

namespace Sys2Proof.Machine

variable {s : State} {k : ContextKind} {l : Level} {d : Word} {below : List Context}

/-! ### The timer service (R180, R184) -/

theorem TimerChannel.fires_iff (u : TimerChannel) :
    u.fires = true ↔ u.softCounter.toNat + 1 ≥ u.softCountMax.toNat := decide_eq_true_iff

/-- R180: a service that fires restarts the postscale counter. -/
theorem TimerChannel.served_of_fires {u : TimerChannel} (h : u.fires = true) :
    u.served = { u with IF := false, softCounter := 0 } := by rw [TimerChannel.served, if_pos h]

/-- R180: a service that does not fire advances the postscale counter. -/
theorem TimerChannel.served_of_not_fires {u : TimerChannel} (h : ¬u.fires = true) :
    u.served = { u with IF := false, softCounter := u.softCounter + 1 } := by
  have hsucc : BitVec.ofNat 32 (u.softCounter.toNat + 1) = u.softCounter + 1 := by
    rw [BitVec.ofNat_add, BitVec.ofNat_toNat, BitVec.setWidth_eq]
    rfl
  rw [TimerChannel.served, if_neg h, hsucc]

/-- R180: the millisecond counter counts every service of channel 0 and wraps. -/
theorem MsClock.toNat_millisCounter_served (m : MsClock) :
    m.served.millisCounter.toNat = (m.millisCounter.toNat + 1) % 2 ^ 32 := BitVec.toNat_add ..

/-- R184: the wait counter counts the services of channel 0 during a WAIT, and wraps. -/
theorem MsClock.toNat_waitCounter_served (m : MsClock) :
    m.served.waitCounter.toNat =
      if m.isWaiting = true then (m.waitCounter.toNat + 1) % 2 ^ 32 else m.waitCounter.toNat := by
  unfold MsClock.served
  split
  · exact BitVec.toNat_add ..
  · rfl

/-- R180: the timer service writes the timer channels, the millisecond clock, the stack and the log. -/
theorem timerService_frame (c : Index) (s : State) :
    timerService c s = { s with
      tmr := (timerService c s).tmr
      ms := (timerService c s).ms
      ctx := (timerService c s).ctx
      events := (timerService c s).events } := by
  simp only [timerService]
  split_ifs <;> rfl

/-- R181: no callback runs where the service does not fire or no handler is registered. -/
theorem timerService_silent {c : Index} (h : ¬((s.tmrAt c).fires = true ∧ (s.tmrAt c).callback ≠ 0)) :
    (timerService c s).ctx = s.ctx ∧ (timerService c s).events = s.events :=
  ((timerService_callback c).resolve_left fun hinvoked => h hinvoked.1).2

/-- R181, R318: the callback runs where the service fires with a handler registered. -/
theorem timerService_invokes {c : Index} (hfires : (s.tmrAt c).fires = true) (hhandler : (s.tmrAt c).callback ≠ 0) :
    (timerService c s).ctx = .code (.timerCB c) (s.tmrAt c).priority none :: s.ctx ∧
      (timerService c s).events = s.events ++ [.invoke (.tmr c) (s.tmrAt c).callback] :=
  ((timerService_callback c).resolve_right fun hsilent => hsilent.1 ⟨hfires, hhandler⟩).2

/-- Settles O42: the served channel is `TimerChannel.served`, whose two cases are those of the callback, and the clock
of channel 0 is `MsClock.served`. -/
theorem timerServiceCountsAndFires : Obligations.TimerServiceCountsAndFires := by
  intro s c hlive htake
  have hserved : (timerService c s).tmrAt c = (s.tmrAt c).served := by rw [tmrAt_timerService, if_pos rfl]
  refine ⟨timerService c s, stepOn_enabled hlive htake, timerService_frame c s, fun c' hne => ?_,
    ⟨fun hcount => ?_, fun hreach => ?_⟩, fun hc => ?_, fun hc => ?_⟩
  · rw [tmrAt_timerService, if_neg hne]
  · have hfires : ¬(s.tmrAt c).fires = true := mt (s.tmrAt c).fires_iff.1 (Nat.not_le.2 hcount)
    exact ⟨hserved.trans (TimerChannel.served_of_not_fires hfires), timerService_silent fun h => hfires h.1⟩
  · have hfires : (s.tmrAt c).fires = true := (s.tmrAt c).fires_iff.2 hreach
    exact ⟨hserved.trans (TimerChannel.served_of_fires hfires), fun hnone => timerService_silent fun h => h.2 hnone,
      timerService_invokes hfires⟩
  · rw [ms_timerService, if_neg hc]
  · rw [ms_timerService, if_pos hc]
    exact ⟨s.ms.toNat_millisCounter_served, rfl, s.ms.toNat_waitCounter_served⟩

/-! ### MILLIS (R183) -/

theorem exec_millis (s : State) : exec .millis s = .next (s.okResult .millis s.ms.millisCounter) := rfl

/-- Settles O22: MILLIS checks nothing. -/
theorem millisReadsCounter : Obligations.MillisReadsCounter := ⟨decode_header .millis, exec_millis⟩

/-! ### A spinning context (R192) -/

/-- R192: Spin is enabled exactly where the top context spins. -/
theorem enabled_spin_iff (s : State) :
    s.enabled .spin = true ↔ ∃ k l d below, s.ctx = .code k l (some d) :: below := by
  have hspin : s.enabled .spin = true ↔ ∃ d, s.spinning = some d := Option.isSome_iff_exists
  rw [hspin]
  constructor
  · rintro ⟨d, hd⟩
    obtain ⟨k, l, below, hctx⟩ := (spinning_iff s d).1 hd
    exact ⟨k, l, d, below, hctx⟩
  · rintro ⟨k, l, d, below, hctx⟩
    exact ⟨d, (spinning_iff s d).2 ⟨k, l, below, hctx⟩⟩

/-- R192: a spinning context issues no command. -/
theorem issue_disabled_of_spinning (h : s.ctx = .code k l (some d) :: below) (w0 w1 w2 : Word) :
    s.enabled (.issue w0 w1 w2) = false := by
  simp only [State.enabled, State.codeOnTop, h]

/-- R192: a spinning context does not Return. -/
theorem ret_disabled_of_spinning (h : s.ctx = .code k l (some d) :: below) : s.enabled .ret = false := by
  simp only [State.enabled, State.canReturn, h]

/-- R255: DispatchStep belongs to a dispatch entry, never to a code context. -/
theorem dispatchStep_disabled_of_code {w : Option Word} (h : s.ctx = .code k l w :: below) :
    s.enabled .dispatchStep = false := by
  simp only [State.enabled, h]

/-- R190, R192: setting the wait of a code context on top replaces that entry only. -/
theorem State.setWait_of_code {w : Option Word} (w' : Option Word) (h : s.ctx = .code k l w :: below) :
    s.setWait w' = { s with ctx := .code k l w' :: below } := by
  rw [State.setWait, h, setTopWait]

/-- R192: a poll completes the WAIT once the wait counter has reached its duration. -/
theorem spin_of_le (h : s.ctx = .code k l (some d) :: below) (hreached : d.toNat ≤ s.ms.waitCounter.toNat) :
    spin d s = { s with
      ms := { s.ms with isWaiting := false }
      ctx := .code k l none :: below
      events := s.events ++ [.result (.op .wait) .ok 0] } := by
  have hctx : State.ctx { s with ms := { s.ms with isWaiting := false } } = .code k l (some d) :: below := h
  rw [spin, if_pos hreached, State.setWait_of_code none hctx]
  rfl

/-- R192: a poll before that changes nothing. -/
theorem spin_of_lt (hearly : s.ms.waitCounter.toNat < d.toNat) : spin d s = s := by
  rw [spin, if_neg (Nat.not_le.2 hearly)]

/-- Settles O43: the step of Spin is one poll of the top context's duration. -/
theorem spinCompletesWait : Obligations.SpinCompletesWait := by
  refine ⟨enabled_spin_iff, fun s k l d below hlive hctx => ?_⟩
  have hpoll : stepOn .spin s = .next (spin d s) := by
    have hduration : s.spinning = some d := (spinning_iff s d).2 ⟨k, l, below, hctx⟩
    rw [stepOn_enabled hlive ((enabled_spin_iff s).2 ⟨k, l, d, below, hctx⟩), perform, hduration, Option.getD_some]
  refine ⟨fun hreached => ?_, fun hearly => ?_, issue_disabled_of_spinning hctx, ret_disabled_of_spinning hctx,
    dispatchStep_disabled_of_code hctx⟩
  · rw [hpoll, spin_of_le hctx hreached]
  · rw [hpoll, spin_of_lt hearly]

/-! ### WAIT (R190) -/

/-- R190: WAIT restarts the wait counter and makes the top context spin. -/
theorem exec_wait_of_code {w : Option Word} (d : Word) (h : s.ctx = .code k l w :: below) :
    exec (.wait d) s = .next { s with
      ms := { s.ms with waitCounter := 0, isWaiting := true }
      ctx := .code k l (some d) :: below } := by
  have hctx : State.ctx { s with ms := { s.ms with waitCounter := 0, isWaiting := true } } = .code k l w :: below := h
  rw [exec, execWait, State.setWait_of_code (some d) hctx]

/-- R312: of the stack, eligibility reads the level of the top entry only; of the millisecond clock, nothing. -/
theorem State.eligible_of_same_level (m : MsClock) {stack : List Context} (h : levelOf stack = levelOf s.ctx)
    (src : Source) : State.eligible { s with ms := m, ctx := stack } src = s.eligible src := by
  simp only [State.eligible, State.currentLevel, h]
  cases src <;> rfl

theorem State.takeable_of_same_level (m : MsClock) {stack : List Context} (h : levelOf stack = levelOf s.ctx)
    (src : Source) : State.takeable { s with ms := m, ctx := stack } src = s.takeable src := by
  simp only [State.takeable, State.eligible_of_same_level m h]
  cases src <;> rfl

/-- Settles O23: the context spins at the level it had before, so the same sources may be taken. -/
theorem waitStartsSpinning : Obligations.WaitStartsSpinning := by
  refine ⟨decode_header (.wait 0), fun s d k l below hctx => ?_⟩
  have hlevel : levelOf (.code k l (some d) :: below) = levelOf s.ctx := by rw [hctx]; rfl
  exact ⟨_, exec_wait_of_code d hctx, rfl, issue_disabled_of_spinning rfl, ret_disabled_of_spinning rfl,
    (enabled_spin_iff _).2 ⟨k, l, d, below, rfl⟩, State.takeable_of_same_level _ hlevel⟩

end Sys2Proof.Machine
end

section
/-! Proofs of the statements of spec/43_pwm_compare_pair.md: the period and duty conversions, the words and outcomes of
PCFG, PDUTY, PSTART and PSTOP, the count of a PWM channel at a Tick, and its two services. -/

namespace Sys2Proof

/-- R101: W0 of a command that uses CH, PORT, PRIO and UNIT, with the unused EDGE and HANDLER taken together. -/
theorem Header.toWord_pcfg (op : BitVec 6) (ch port : Index) (prio : Level) (unit : BitVec 1) :
    0#10 ++ unit ++ prio ++ 0#4 ++ port ++ ch ++ op = Header.toWord ⟨op, ch, port, 0, prio, unit, 0, 0⟩ := by
  have hzero : 0#10 = 0#8 ++ 0#2 := rfl
  rw [hzero]
  rfl

end Sys2Proof

namespace Sys2Proof.Machine

variable {s : State}

/-! ### The period and duty conversions (R201, R211) -/

theorem clamp_of_le_lo {v lo hi : Nat} (hle : lo ≤ hi) (h : v ≤ lo) : clamp v lo hi = lo := by
  rw [clamp, Nat.max_eq_right h, Nat.min_eq_left hle]

theorem clamp_of_hi_le {v lo hi : Nat} (h : hi ≤ v) : clamp v lo hi = hi :=
  Nat.min_eq_right (h.trans (Nat.le_max_left ..))

theorem clamp_of_mem {v lo hi : Nat} (hlo : lo ≤ v) (hhi : v ≤ hi) : clamp v lo hi = v := by
  rw [clamp, Nat.max_eq_left hlo, Nat.min_eq_left hhi]

/-- R131, R201: the period is clamped from the exact product with the table's entry. -/
theorem pwmPeriod_eq {cfg : Config} {f : Word} {r : Rate} (u : TimeUnit) (n : Word)
    (h : cfg.rates[f.toNat]? = some r) :
    pwmPeriod cfg f u n = clamp (n.toNat * (r.count u).toNat) cfg.pwmMin cfg.pwmMax := by
  rw [pwmPeriod, ticksFor_eq u n h]

/-- Settles O54: the product lies below, above or between the bounds, which an admitted configuration has in order and
within the counter's width. -/
theorem pwmPeriodIsClampedExactly : Obligations.PwmPeriodIsClampedExactly := by
  intro cfg f n r unit wf hr
  obtain ⟨hpos, hle, hfits⟩ := Config.wellFormed_pwmBounds wf
  obtain ⟨hlo, hhi⟩ := pwmPeriod_bounds hle f unit n
  refine ⟨fun hsmall => ?_, fun hlarge => ?_, fun hmin hmax => ?_, hpos.trans hlo, hhi.trans hfits⟩
  all_goals rw [pwmPeriod_eq unit n hr]
  · exact clamp_of_le_lo hle hsmall
  · exact clamp_of_hi_le hlarge
  · exact clamp_of_mem hmin hmax

/-- R211: rounding half up, as bounds: the compare value is the one `k` with `k - 1/2 ≤ f * P / 65536 < k + 1/2`. -/
theorem dutyTicksOf_eq_iff (f : BitVec 17) (period k : Nat) :
    dutyTicksOf f period = k ↔
      65536 * k ≤ f.toNat * period + 32768 ∧ f.toNat * period + 32768 < 65536 * (k + 1) := by
  unfold dutyTicksOf
  omega

theorem dutyTicksOf_eq_zero_iff (f : BitVec 17) (period : Nat) :
    dutyTicksOf f period = 0 ↔ f.toNat * period < 32768 := by
  rw [dutyTicksOf_eq_iff]
  omega

/-- R211: the whole period is what lacks at most half a count of it. -/
theorem dutyTicksOf_eq_period_iff {f : BitVec 17} (hf : f.toNat ≤ 65536) (period : Nat) :
    dutyTicksOf f period = period ↔ (65536 - f.toNat) * period ≤ 32768 := by
  have hprod : f.toNat * period ≤ 65536 * period := Nat.mul_le_mul_right _ hf
  rw [dutyTicksOf_eq_iff, Nat.sub_mul]
  omega

/-- Settles O53: the bounds name one value, and its ends follow from them. -/
theorem dutyConversionRoundsHalfUp : Obligations.DutyConversionRoundsHalfUp := by
  intro f period hf
  obtain ⟨hlower, hupper⟩ := (dutyTicksOf_eq_iff f period _).1 rfl
  have hnone : dutyTicksOf 0 period = 0 := (dutyTicksOf_eq_zero_iff 0 period).2 (by simp)
  have hfull : dutyTicksOf 65536 period = period := (dutyTicksOf_eq_period_iff (by decide) period).2 (by simp)
  exact ⟨dutyTicksOf_le hf period, hlower, hupper, dutyTicksOf_eq_zero_iff f period, dutyTicksOf_eq_period_iff hf period,
    hnone, hfull⟩

/-! ### Writing a PWM channel and driving its pin (R12) -/

/-- R12: writing one PWM channel leaves the other channels and the rest of the state as they are. -/
theorem State.setPwm_frame (s : State) (ch : Index) (w : PwmChannel) :
    s.setPwm ch w = { s with pwm := (s.setPwm ch w).pwm } ∧ s.PwmsAgreeExcept (s.setPwm ch w) ch ∧
      (s.setPwm ch w).pwmAt ch = w :=
  ⟨rfl, fun _ hne => s.pwmAt_setPwm_other ch _ w hne, s.pwmAt_setPwm_same ch w⟩

/-- R12: writing one PWM channel and driving a pin leaves the other channels, the other pins and the rest of the state as
they are, and logs the drive. -/
theorem State.setPwm_drive_frame {t : State} {ch p i : Index} {w : PwmChannel} {level : PinLevel}
    (h : t = (s.setPwm ch w).drive p i level) :
    t = { s with pwm := t.pwm, pin := t.pin, events := s.events ++ [.drive p i level] } ∧
      s.PwmsAgreeExcept t ch ∧ s.PinsAgreeExcept t p i ∧ t.pwmAt ch = w ∧
      t.pinAt p i = { s.pinAt p i with outLevel := some level } := by
  subst h
  exact ⟨rfl, fun _ hne => s.pwmAt_setPwm_other ch _ w hne,
    fun p' i' hne => State.pinAt_setPin_other _ p i p' i' _ hne, s.pwmAt_setPwm_same ch w,
    State.pinAt_setPin_same _ p i _⟩

/-! ### PCFG (R200, R202) -/

/-- R202: a pin given by its number is free if it is not bound and not held by another channel. -/
theorem State.pinFree_ofNat_iff (s : State) (c p : Index) {k : Nat} (hk : k < 16) :
    s.pinFree c p (BitVec.ofNat 4 k) = true ↔ (s.pinAt p (BitVec.ofNat 4 k)).edge = .none ∧
      ∀ c', c' ≠ c → c'.toNat < s.cfg.nPwm → (s.pwmAt c').claims p k = false := by
  have hnat : (BitVec.ofNat 4 k).toNat = k := by rw [BitVec.toNat_ofNat, Nat.mod_eq_of_lt hk]
  rw [State.pinFree_iff, hnat]

/-- R202: a pin that is bound or held by another channel is not free. -/
theorem State.not_pinFree_ofNat {c p : Index} {k : Nat} (hk : k < 16)
    (h : (s.pinAt p (BitVec.ofNat 4 k)).edge ≠ .none ∨
      ∃ c', c' ≠ c ∧ c'.toNat < s.cfg.nPwm ∧ (s.pwmAt c').claims p k = true) :
    ¬s.pinFree c p (BitVec.ofNat 4 k) = true := by
  rw [s.pinFree_ofNat_iff c p hk]
  rintro ⟨hedge, hother⟩
  rcases h with hbound | ⟨c', hne, hin, hclaim⟩
  · exact hbound hedge
  · rw [hother c' hne hin] at hclaim
    cases hclaim

section Pcfg

variable {ch port : Index} {f : Word} (prio : Level) (unit : TimeUnit) (per mask : Word)

theorem exec_pcfg_of_missing (hout : ch.toNat ≥ s.cfg.nPwm) :
    exec (.pcfg ch port prio unit per mask) s = .next (s.errResult .pcfg .configErr) := by
  simp only [exec, execPcfg, if_pos hout, fail_configErr]

theorem exec_pcfg_of_none (hin : ch.toNat < s.cfg.nPwm) (hf : s.freqSel = none) :
    exec (.pcfg ch port prio unit per mask) s = .next (s.faulted .freqUnset) := by
  simp only [exec, execPcfg, if_neg (Nat.not_le.2 hin), hf, raiseFault_next]

/-- R200: the checks of PCFG that come after the selected frequency, in their order. -/
theorem exec_pcfg_of_some (hin : ch.toNat < s.cfg.nPwm) (hf : s.freqSel = some f) :
    exec (.pcfg ch port prio unit per mask) s =
      if (s.pwmAt ch).enabled then .next (s.faulted .reconfigureWhileRunning)
      else if popcount mask ≠ 1 then .next (s.faulted .pinMaskInvalid)
      else if port.toNat ≥ s.cfg.nPort ∨ maskIndex mask ≥ s.cfg.nPin then .next (s.errResult .pcfg .configErr)
      else if ¬s.pinFree ch port (BitVec.ofNat 4 (maskIndex mask)) then .next (s.errResult .pcfg .conflictErr)
      else .next ((s.setPwm ch { s.pwmAt ch with
        port := port, pinMask := mask, periodTicks := pwmPeriod s.cfg f unit per, priority := prio, counter := 0,
        dutyTicks := dutyTicksOf (s.pwmAt ch).dutyFrac (pwmPeriod s.cfg f unit per) }).okResult .pcfg 0) := by
  simp only [exec, execPcfg, if_neg (Nat.not_le.2 hin), hf, raiseFault_next, fail_configErr, fail_conflictErr,
    finish_ok]

/-- R200, R202: PCFG of a stopped channel with the mask of pin `k` goes on to check that the pin exists and is free. -/
theorem exec_pcfg_of_stopped {k : Nat} (hk : k < 32) (hin : ch.toNat < s.cfg.nPwm) (hf : s.freqSel = some f)
    (hoff : (s.pwmAt ch).enabled = false) :
    exec (.pcfg ch port prio unit per (1#32 <<< k)) s =
      if port.toNat ≥ s.cfg.nPort ∨ k ≥ s.cfg.nPin then .next (s.errResult .pcfg .configErr)
      else if ¬s.pinFree ch port (BitVec.ofNat 4 k) then .next (s.errResult .pcfg .conflictErr)
      else .next ((s.setPwm ch { s.pwmAt ch with
        port := port, pinMask := 1#32 <<< k, periodTicks := pwmPeriod s.cfg f unit per, priority := prio, counter := 0,
        dutyTicks := dutyTicksOf (s.pwmAt ch).dutyFrac (pwmPeriod s.cfg f unit per) }).okResult .pcfg 0) := by
  have hidx : maskIndex (1#32 <<< k) = k := maskIndex_shift ⟨k, hk⟩
  have hone : popcount (1#32 <<< k) = 1 := popcount_shift ⟨k, hk⟩
  rw [exec_pcfg_of_some prio unit per _ hin hf, if_neg (Bool.eq_false_iff.1 hoff), if_neg (Classical.not_not.2 hone),
    hidx]

end Pcfg

/-- Settles O24: each clause's premises fail the checks before its own and pass its own, and the pin index of a mask 2^k
is k. -/
theorem pcfgConfiguresStoppedChannel : Obligations.PcfgConfiguresStoppedChannel := by
  refine ⟨fun ch port prio unit w1 w2 => ?_, fun s ch port prio unit per mask =>
    ⟨exec_pcfg_of_missing prio unit per mask, exec_pcfg_of_none prio unit per mask, fun hin hsel hon => ?_,
      fun hin hsel hoff hmask => ?_, fun k hk hin hsel hoff hmask hmissing => ?_,
      fun k hk hin hsel hoff hmask hport hpin h16 hheld => ?_,
      fun k hk f r hin hf hr hoff hmask hport hpin h16 hedge hother => ?_⟩⟩
  · rw [Header.toWord_pcfg]
    exact decode_encode (.pcfg ch port prio unit w1 w2)
  · obtain ⟨f, hf⟩ := Option.ne_none_iff_exists'.1 hsel
    rw [exec_pcfg_of_some prio unit per mask hin hf, if_pos hon]
  · obtain ⟨f, hf⟩ := Option.ne_none_iff_exists'.1 hsel
    rw [exec_pcfg_of_some prio unit per mask hin hf, if_neg (Bool.eq_false_iff.1 hoff),
      if_pos (mt (popcount_eq_one_iff mask).1 hmask)]
  · obtain ⟨f, hf⟩ := Option.ne_none_iff_exists'.1 hsel
    rw [hmask, exec_pcfg_of_stopped prio unit per hk hin hf hoff, if_pos hmissing]
  · obtain ⟨f, hf⟩ := Option.ne_none_iff_exists'.1 hsel
    have hexists : ¬(port.toNat ≥ s.cfg.nPort ∨ k ≥ s.cfg.nPin) := not_or.2 ⟨Nat.not_le.2 hport, Nat.not_le.2 hpin⟩
    rw [hmask, exec_pcfg_of_stopped prio unit per hk hin hf hoff, if_neg hexists,
      if_pos (State.not_pinFree_ofNat (hpin.trans_le h16) hheld)]
  · have hexists : ¬(port.toNat ≥ s.cfg.nPort ∨ k ≥ s.cfg.nPin) := not_or.2 ⟨Nat.not_le.2 hport, Nat.not_le.2 hpin⟩
    have hfree := (s.pinFree_ofNat_iff ch port (hpin.trans_le h16)).2 ⟨hedge, hother⟩
    rw [hmask, exec_pcfg_of_stopped prio unit per hk hin hf hoff, if_neg hexists, if_neg (Classical.not_not.2 hfree),
      pwmPeriod_eq unit per hr]
    obtain ⟨hframe, hothers, hset⟩ := s.setPwm_frame ch _
    refine ⟨_, rfl, hframe, hothers, hset, ?_⟩
    rw [hset, PwmChannel.claims_iff]
    exact ⟨shift_ne_zero ⟨k, hk⟩, rfl, maskIndex_shift ⟨k, hk⟩⟩

/-! ### PDUTY (R210) -/

theorem exec_pduty (ch : Index) (duty : Word) (s : State) :
    exec (.pduty ch duty) s =
      if ch.toNat ≥ s.cfg.nPwm then .next (s.errResult .pduty .configErr)
      else .next ((s.setPwm ch { s.pwmAt ch with
        dutyFrac := clampDuty duty, dutyTicks := dutyTicksOf (clampDuty duty) (s.pwmAt ch).periodTicks }).okResult
          .pduty 0) := rfl

/-- Settles O25: the written fraction is the clamped operand, and no check reads `enabled`. -/
theorem pdutySetsFractionAndCompare : Obligations.PdutySetsFractionAndCompare := by
  refine ⟨fun ch w1 w2 => ?_, fun s ch duty => ⟨fun hout => ?_, fun hin => ?_⟩⟩
  · rw [Header.toWord_channel]
    exact decode_header (.pduty ch w1) w1 w2
  · rw [exec_pduty, if_pos hout]
  · obtain ⟨hframe, hothers, hset⟩ := s.setPwm_frame ch { s.pwmAt ch with
      dutyFrac := clampDuty duty, dutyTicks := dutyTicksOf (clampDuty duty) (s.pwmAt ch).periodTicks }
    rw [exec_pduty, if_neg (Nat.not_le.2 hin)]
    refine ⟨_, rfl, hframe, hothers, ?_, ?_, ?_⟩
    all_goals rw [hset]
    · exact clampDuty_toNat duty
    · rw [dutyTicksOf, clampDuty_toNat]

/-! ### PSTART (R205) -/

/-- R205: the checks of PSTART in their order, each with the outcome it answers. -/
theorem exec_pstart (ch : Index) (s : State) :
    exec (.pstart ch) s =
      if ch.toNat ≥ s.cfg.nPwm ∨ (s.pwmAt ch).pinMask = 0 then .next (s.errResult .pstart .configErr)
      else if (s.pwmAt ch).enabled then .next (s.okResult .pstart 0)
      else .next (((s.setPwm ch
        { s.pwmAt ch with counter := 0, IFA := false, IFB := false, missed := 0, enabled := true }).drive
          (s.pwmAt ch).port (s.pwmAt ch).pinIndex (s.pwmAt ch).startLevel).okResult .pstart 0) := rfl

/-- Settles O26: a running channel is left alone, and the start of a stopped one writes that channel and drives its
pin. -/
theorem pstartDrivesTimeZeroLevel : Obligations.PstartDrivesTimeZeroLevel := by
  refine ⟨fun ch w1 w2 => ?_, fun s ch => ⟨fun hbad => ?_, fun hin hmask hon => ?_, fun hin hmask hoff => ?_⟩⟩
  · rw [Header.toWord_channel]
    exact decode_header (.pstart ch) w1 w2
  · rw [exec_pstart, if_pos hbad]
  · rw [exec_pstart, if_neg (not_or.2 ⟨Nat.not_le.2 hin, hmask⟩), if_pos hon]
  · rw [exec_pstart, if_neg (not_or.2 ⟨Nat.not_le.2 hin, hmask⟩), if_neg (Bool.eq_false_iff.1 hoff)]
    exact ⟨_, rfl, State.setPwm_drive_frame rfl⟩

/-! ### PSTOP (R206) -/

theorem exec_pstop (ch : Index) (s : State) :
    exec (.pstop ch) s =
      if ch.toNat ≥ s.cfg.nPwm then .next (s.errResult .pstop .configErr)
      else .next ((s.setPwm ch { s.pwmAt ch with enabled := false, IFA := false, IFB := false }).okResult .pstop 0) :=
  rfl

/-- Settles O27: only the channel is written, and both its events are masked, so neither service can begin. -/
theorem pstopKeepsPinLevel : Obligations.PstopKeepsPinLevel := by
  refine ⟨fun ch w1 w2 => ?_, fun s ch => ⟨fun hout => ?_, fun hin => ?_⟩⟩
  · rw [Header.toWord_channel]
    exact decode_header (.pstop ch) w1 w2
  · rw [exec_pstop, if_pos hout]
  · obtain ⟨hframe, hothers, hset⟩ :=
      s.setPwm_frame ch { s.pwmAt ch with enabled := false, IFA := false, IFB := false }
    have hmasked := congrArg PwmChannel.enabled hset
    rw [exec_pstop, if_neg (Nat.not_le.2 hin)]
    exact ⟨_, rfl, hframe, hothers, hset, State.takeable_eq_false_of_masked hmasked,
      State.takeable_eq_false_of_masked hmasked⟩

/-! ### The count of a PWM channel (R215, R40) -/

/-- R215: event A sets its flag, and is counted when the flag was set already. -/
theorem eventA_eq (w : PwmChannel) :
    eventA w = { w with IFA := true, missed := if w.IFA = true then saturatingSucc w.missed else w.missed } := by
  unfold eventA
  split
  case isTrue hset => rw [satInc_eq, ← hset]
  case isFalse => rfl

/-- R215: event B sets its flag, and is counted when the flag was set already. -/
theorem eventB_eq (w : PwmChannel) :
    eventB w = { w with IFB := true, missed := if w.IFB = true then saturatingSucc w.missed else w.missed } := by
  unfold eventB
  split
  case isTrue hset => rw [satInc_eq, ← hset]
  case isFalse => rfl

/-- R40, R215: a count that ends at 0 is never event B, whose compare value is at least 1. -/
theorem PwmChannel.no_compare_at_rollover {w : PwmChannel} (h : w.nextCount = 0) :
    ¬(w.mode = .normal ∧ w.nextCount = w.dutyTicks) := by
  rintro ⟨hmode, heq⟩
  exact (w.mode_eq_normal.1 hmode).1 (heq.symm.trans h)

/-- R215: one count in one equation: `A` is the rollover and `B` the compare event. -/
theorem pwmCount_events (w : PwmChannel) {A B : Prop} [Decidable A] [Decidable B] (hA : A ↔ w.nextCount = 0)
    (hB : B ↔ w.mode = .normal ∧ w.nextCount = w.dutyTicks) :
    ¬(A ∧ B) ∧ pwmCount w = { w with
      counter := w.nextCount
      IFA := w.IFA || decide A
      IFB := w.IFB || decide B
      missed := if (A ∧ w.IFA = true) ∨ (B ∧ w.IFB = true) then saturatingSucc w.missed else w.missed } := by
  have hexcl : ¬(A ∧ B) := fun ⟨ha, hb⟩ => PwmChannel.no_compare_at_rollover (hA.1 ha) (hB.1 hb)
  refine ⟨hexcl, ?_⟩
  rcases pwmCount_cases w with ⟨hzero, heq⟩ | ⟨hzero, hmode, hcmp, heq⟩ | ⟨hzero, hcmp, heq⟩
  · have ha : A := hA.2 hzero
    have hb : ¬B := fun hb => hexcl ⟨ha, hb⟩
    simp [heq, eventA_eq, ha, hb, hzero]
  · have ha : ¬A := mt hA.1 hzero
    have hb : B := hB.2 ⟨hmode, hcmp⟩
    simp [heq, eventB_eq, ha, hb]
  · have ha : ¬A := mt hA.1 hzero
    have hb : ¬B := mt hB.1 hcmp
    simp [heq, ha, hb]

/-- R160: a running channel counts. -/
theorem tickPwm_of_enabled {w : PwmChannel} (h : w.enabled = true) : tickPwm w = pwmCount w := if_pos h

/-- R160: a stopped channel does not. -/
theorem tickPwm_of_stopped {w : PwmChannel} (h : w.enabled = false) : tickPwm w = w := if_neg (Bool.eq_false_iff.1 h)

/-- Settles O40: a Tick counts the running channels of the configuration, and Normal mode is the condition of event B
that the statement spells out. -/
theorem tickRaisesCompareEvents : Obligations.TickRaisesCompareEvents := by
  intro s hlive
  refine ⟨tick s, stepOn_enabled hlive rfl, fun c => ⟨fun hstill => ?_, fun hin hon => ?_⟩⟩
  · rw [State.pwmAt_tick]
    rcases hstill with hout | hoff
    · rw [if_neg (Nat.not_lt.2 hout)]
    · rw [tickPwm_of_stopped hoff, ite_self]
  · rw [State.pwmAt_tick, if_pos hin, tickPwm_of_enabled hon]
    refine pwmCount_events (s.pwmAt c) Iff.rfl ?_
    rw [PwmChannel.mode_eq_normal, and_assoc]
    rfl

/-! ### The two services (R216, R217) -/

/-- R217: service B of a channel that is not all-high. -/
theorem pwmServiceB_of_lt {c : Index} (h : (s.pwmAt c).dutyTicks < (s.pwmAt c).periodTicks) :
    pwmServiceB c s =
      (s.setPwm c { s.pwmAt c with IFB := false }).drive (s.pwmAt c).port (s.pwmAt c).pinIndex .low := if_pos h

/-- R217: service B of an all-high channel only clears its flag. -/
theorem pwmServiceB_of_le {c : Index} (h : (s.pwmAt c).periodTicks ≤ (s.pwmAt c).dutyTicks) :
    pwmServiceB c s = s.setPwm c { s.pwmAt c with IFB := false } := if_neg (Nat.not_lt.2 h)

/-- Settles O44: each service clears its own flag, and where it drives the pin it does so as PSTART does. -/
theorem pwmServicesDrivePin : Obligations.PwmServicesDrivePin := by
  intro s c hlive
  refine ⟨fun htake => ⟨pwmServiceA c s, stepOn_enabled hlive htake, State.setPwm_drive_frame rfl⟩,
    fun htake => ⟨pwmServiceB c s, stepOn_enabled hlive htake, fun c' hne => ?_, ?_, fun hlt => ?_, fun hge => ?_⟩⟩
  · rw [pwmAt_pwmServiceB, if_neg hne]
  · rw [pwmAt_pwmServiceB, if_pos rfl]
  · obtain ⟨hframe, -, hpins, -, hpin⟩ := State.setPwm_drive_frame (pwmServiceB_of_lt hlt)
    exact ⟨hframe, hpins, hpin⟩
  · rw [pwmServiceB_of_le hge]
    exact (s.setPwm_frame c _).1

end Sys2Proof.Machine
end

section
/-! Proofs of the statements of spec/44_pin_interrupt_dispatcher.md: the words and outcomes of BIND, the two steps that
set a pin's flags, the DispatchStep, and the frame of a write to one pin and its port. -/

namespace Sys2Proof

/-- R101: the unused fields UNIT and PRIO lie side by side in W0. -/
theorem append_zero_unit_prio {n : Nat} (x : BitVec n) : x ++ 0#4 = x ++ 0#1 ++ 0#3 :=
  (BitVec.append_assoc (x₁ := x) (x₂ := 0#1) (x₃ := 0#3)).symm

/-- R101: W0 of a command that uses PORT, PIN, EDGE and HANDLER, with the unused UNIT and PRIO taken together. -/
theorem Header.toWord_bind (op : BitVec 6) (port pin : Index) (edge : BitVec 2) (h : HandlerId) :
    h ++ edge ++ 0#4 ++ pin ++ port ++ 0#4 ++ op = Header.toWord ⟨op, 0, port, pin, 0, 0, edge, h⟩ := by
  rw [append_zero_unit_prio (h ++ edge)]
  rfl

end Sys2Proof

namespace Sys2Proof.Machine

variable {s t : State} {p : Index}

/-! ### Writing a port, and a pin with it (R12) -/

/-- R12: writing one port leaves the other ports and the rest of the state as they are. -/
theorem State.setPort_frame (s : State) (p : Index) (q : Port) :
    s.setPort p q = { s with port := (s.setPort p q).port } ∧ s.PortsAgreeExcept (s.setPort p q) p ∧
      (s.setPort p q).portAt p = q :=
  ⟨rfl, fun _ hne => s.portAt_setPort_other p _ q hne, s.portAt_setPort_same p q⟩

/-- R12: writing one pin and its port leaves the other pins, the other ports and the rest of the state as they are. -/
theorem State.setPin_setPort_frame {i : Index} {x : Pin} {q : Port} (h : t = (s.setPin p i x).setPort p q) :
    t = { s with pin := t.pin, port := t.port } ∧ s.PinsAgreeExcept t p i ∧ s.PortsAgreeExcept t p ∧
      t.pinAt p i = x ∧ t.portAt p = q := by
  obtain ⟨-, hports, hport⟩ := (s.setPin p i x).setPort_frame p q
  subst h
  exact ⟨rfl, fun p' i' hne => s.pinAt_setPin_other p i p' i' x hne, hports, s.pinAt_setPin_same p i x, hport⟩

/-! ### BIND (R240, R241) -/

/-- R241: the edge mode of an EDGE field that is not the reserved 0b00. -/
theorem decodeEdge_of_ne_zero : ∀ edge : BitVec 2, edge ≠ 0 →
    decodeEdge edge = if edge = 1 then .rising else if edge = 2 then .falling else .either := by decide

/-- R240: the checks of BIND in their order, with those that answer CONFIG_ERR taken together. -/
theorem exec_bind (port pin : Index) (edge : BitVec 2) (h : HandlerId) (s : State) :
    exec (.bind port pin edge h) s =
      if port.toNat ≥ s.cfg.nPort ∨ pin.toNat ≥ s.cfg.nPin ∨ edge = 0 then .next (s.errResult .bind .configErr)
      else if s.pwmHolds port pin.toNat then .next (s.errResult .bind .conflictErr)
      else .next (((s.setPin port pin
        { s.pinAt port pin with changeFlag := false, edge := decodeEdge edge, handler := h }).setPort port
          { s.portAt port with flag := false, IE := true }).okResult .bind 0) := by
  simp only [exec, execBind, ite_or, fail_configErr, fail_conflictErr, finish_ok]

/-- Settles O29: each clause's premises fail the checks before its own and pass its own, and a successful BIND writes
the pin and its port. -/
theorem bindReplacesBinding : Obligations.BindReplacesBinding := by
  refine ⟨fun port pin edge h w1 w2 => ?_, fun s port pin edge h =>
    ⟨fun hbad => ?_, fun hport hpin hedge hheld => ?_, fun hport hpin hedge hfree => ?_⟩⟩
  · rw [Header.toWord_bind]
    exact decode_header (.bind port pin edge h) w1 w2
  · rw [exec_bind, if_pos hbad]
  all_goals
    have hvalid : ¬(port.toNat ≥ s.cfg.nPort ∨ pin.toNat ≥ s.cfg.nPin ∨ edge = 0) := by
      simp only [not_or]
      exact ⟨Nat.not_le.2 hport, Nat.not_le.2 hpin, hedge⟩
    rw [exec_bind, if_neg hvalid]
  · rw [if_pos ((s.pwmHolds_iff port pin.toNat).2 hheld)]
  · have hnone : ¬s.pwmHolds port pin.toNat = true := by
      rw [s.pwmHolds_iff]
      rintro ⟨c, hin, hclaim⟩
      rw [hfree c hin] at hclaim
      cases hclaim
    rw [if_neg hnone, decodeEdge_of_ne_zero edge hedge]
    exact ⟨_, rfl, State.setPin_setPort_frame rfl⟩

/-! ### PinEdge and SpuriousFlag (R250, R251) -/

/-- R241: the edges that match a pin's edge mode. -/
theorem edgeMatches_iff (m : EdgeMode) (dir : EdgeDir) :
    edgeMatches m dir = true ↔ m = .either ∨ (m = .rising ∧ dir = .rise) ∨ (m = .falling ∧ dir = .fall) := by
  cases m with
  | none | either => simp [edgeMatches]
  | rising | falling => cases dir <;> simp [edgeMatches]

/-- R241: the edges that do not. -/
theorem edgeMatches_eq_false_iff (m : EdgeMode) (dir : EdgeDir) :
    edgeMatches m dir = false ↔ m = .none ∨ (m = .rising ∧ dir = .fall) ∨ (m = .falling ∧ dir = .rise) := by
  cases m with
  | none | either => simp [edgeMatches]
  | rising | falling => cases dir <;> simp [edgeMatches]

/-- R250: a matching edge sets the flags that a spurious flag sets. -/
theorem pinEdge_of_matches {i : Index} {dir : EdgeDir} (h : edgeMatches (s.pinAt p i).edge dir = true) :
    pinEdge p i dir s = spuriousFlag p i s := if_pos h

/-- R250: an edge that does not match changes nothing. -/
theorem pinEdge_of_mismatch {i : Index} {dir : EdgeDir} (h : edgeMatches (s.pinAt p i).edge dir = false) :
    pinEdge p i dir s = s := if_neg (Bool.eq_false_iff.1 h)

/-- Settles O51: both steps are enabled on an existing pin, and the statement spells out when an edge matches. -/
theorem pinEdgeSetsFlagsWhenItMatches : Obligations.PinEdgeSetsFlagsWhenItMatches := by
  intro s p i dir hlive hport hpin
  have hedge : stepOn (.pinEdge p i dir) s = .next (pinEdge p i dir s) :=
    stepOn_enabled hlive (decide_eq_true ⟨hport, hpin⟩)
  have hspurious : stepOn (.spuriousFlag p i) s = .next (spuriousFlag p i s) :=
    stepOn_enabled hlive (decide_eq_true ⟨hport, hpin⟩)
  refine ⟨fun hmatch => ?_, fun hmismatch => ?_, _, hspurious, State.setPin_setPort_frame rfl⟩
  · rw [hedge, pinEdge_of_matches ((edgeMatches_iff _ _).2 hmatch), hspurious]
  · rw [hedge, pinEdge_of_mismatch ((edgeMatches_eq_false_iff _ _).2 hmismatch)]

/-! ### DispatchStep (R255) -/

section Dispatch

variable {l : Level} {k : Nat} {rest : List Context} {j : Index}

/-- R255: DispatchStep is enabled exactly where a dispatch entry is on top. -/
theorem enabled_dispatchStep_iff (s : State) :
    s.enabled .dispatchStep = true ↔ ∃ p l k rest, s.ctx = .dispatch p l k :: rest := by
  simp only [State.enabled]
  split
  next p l k rest hctx => exact iff_of_true rfl ⟨p, l, k, rest, hctx⟩
  next hnone => exact iff_of_false Bool.false_ne_true fun ⟨p, l, k, rest, hctx⟩ => hnone p l k rest hctx

/-- R255: the step of a dispatch entry on top is one step of that port's walk. -/
theorem stepOn_dispatchStep (hlive : s.Live) (hctx : s.ctx = .dispatch p l k :: rest) :
    stepOn .dispatchStep s = .next (dispatchPort p l k rest s) := by
  rw [stepOn_enabled hlive ((enabled_dispatchStep_iff s).2 ⟨p, l, k, rest, hctx⟩), perform, dispatchStep, hctx]

/-- R255: with no pin left to examine, the walk clears the port's flag and ends. -/
theorem dispatchPort_of_none (h : s.nextFlagged p k = none) :
    dispatchPort p l k rest s = State.setPort { s with ctx := rest } p { s.portAt p with flag := false } := by
  rw [dispatchPort, h]
  rfl

/-- R255, R318: a flagged pin with a handler has it invoked, and the walk waits at that pin. -/
theorem dispatchPort_of_bound (h : s.nextFlagged p k = some j) (hbound : (s.pinAt p j).handler ≠ 0) :
    dispatchPort p l k rest s = { s with
      ctx := .code (.pinCB p j) l none :: .dispatch p l j.toNat :: rest
      events := s.events ++ [.invoke (.pin p j) (s.pinAt p j).handler] } := by
  simp only [dispatchPort, h, if_pos hbound]
  rfl

/-- R255: a flagged pin without a handler is cleared and counted, and the walk goes on past it. -/
theorem dispatchPort_of_unbound (h : s.nextFlagged p k = some j) (hunbound : (s.pinAt p j).handler = 0) :
    dispatchPort p l k rest s =
      (State.setPin { s with ctx := .dispatch p l (j.toNat + 1) :: rest } p j
        { s.pinAt p j with changeFlag := false }).setPort p
          { s.portAt p with spurious := saturatingSucc (s.portAt p).spurious } := by
  simp only [dispatchPort, h, if_neg (Classical.not_not.2 hunbound), satInc_eq]
  rfl

end Dispatch

/-- Settles O49: the search for the least flagged pin answers none or that pin, which has a handler or has none. -/
theorem dispatchStepWalksFlaggedPins : Obligations.DispatchStepWalksFlaggedPins := by
  refine ⟨enabled_dispatchStep_iff, fun s p l k rest hlive hctx =>
    ⟨fun hclear => ?_, fun j hk hj hflag hleast => ?_⟩⟩
  · have hstep := stepOn_dispatchStep hlive hctx
    rw [dispatchPort_of_none ((s.nextFlagged_none p k).2 hclear)] at hstep
    exact ⟨_, hstep, State.setPort_frame { s with ctx := rest } p _⟩
  · have hnext : s.nextFlagged p k = some j :=
      (s.nextFlagged_some p k j).2 ⟨hk, hj, hflag, fun j' hlt hk' _ => hleast j' hk' hlt⟩
    have hstep := stepOn_dispatchStep hlive hctx
    refine ⟨fun hbound => ?_, fun hunbound => ?_⟩
    · rw [hstep, dispatchPort_of_bound hnext hbound]
    · rw [dispatchPort_of_unbound hnext hunbound] at hstep
      exact ⟨_, hstep, State.setPin_setPort_frame (s := { s with ctx := .dispatch p l (j.toNat + 1) :: rest }) rfl⟩

end Sys2Proof.Machine
end

section
/-! Proofs of the statements of spec/45_status_and_control.md: the words of NOP and RDERR, and what each command does in
every state. -/

namespace Sys2Proof

/-- R273: NOP is the zero W0 alone, as R104's account of the illegal commands already says. -/
theorem decode_eq_nop_iff (c : Command) : decode c = .ok .nop ↔ c.w0 = 0 := by
  obtain ⟨-, -, hnop⟩ := illegalCommandChangesOnlyLastError
  exact hnop c

end Sys2Proof

namespace Sys2Proof.Machine

variable {s : State}

/-! ### NOP (R273) -/

theorem exec_nop (s : State) : exec .nop s = .next (s.okResult .nop 0) := finish_ok .nop 0 s

/-- Settles O13: NOP's row holds the zero word alone, and NOP only completes. -/
theorem nopOnlyCompletes : Obligations.NopOnlyCompletes := ⟨decode_eq_nop_iff, exec_nop⟩

/-! ### RDERR (R276) -/

/-- R276: RDERR completes with the code of the flag, from a state where the flag is cleared. -/
theorem exec_rderr (s : State) :
    exec .rderr s = .next ({ s with lastError := .ok }.okResult .rderr s.lastError.code) :=
  finish_ok .rderr s.lastError.code { s with lastError := .ok }

/-- R276: where the flag is already clear, RDERR reads 0 and has nothing to clear. -/
theorem exec_rderr_of_ok (h : s.lastError = .ok) : exec .rderr s = .next (s.okResult .rderr 0) := by
  have hclear : { s with lastError := .ok } = s := by rw [← h]
  rw [exec_rderr, hclear, h]
  rfl

/-- Settles O31: the first RDERR leaves the flag clear, so the second one reads 0. -/
theorem rderrReadsAndClears : Obligations.RderrReadsAndClears := by
  refine ⟨decode_header .rderr, fun s => ⟨_, exec_rderr s, ?_, exec_rderr_of_ok rfl⟩⟩
  cases s.lastError <;> rfl

end Sys2Proof.Machine
end

section
/-! Proofs of the statements of spec/60_exceptions.md: what Return restores, and what a model fault stops. -/

namespace Sys2Proof.Machine

variable {s t : State}

/-! ### Return (R320) -/

/-- R12: writing one pin leaves the other pins and the rest of the state as they are. -/
theorem State.setPin_frame (s : State) (p i : Index) (x : Pin) :
    s.setPin p i x = { s with pin := (s.setPin p i x).pin } ∧ s.PinsAgreeExcept (s.setPin p i x) p i ∧
      (s.setPin p i x).pinAt p i = x :=
  ⟨rfl, fun p' i' hne => s.pinAt_setPin_other p i p' i' x hne, s.pinAt_setPin_same p i x⟩

/-- R320: Return is enabled exactly where a callback that does not spin is on top. -/
theorem enabled_ret_iff (s : State) :
    s.enabled .ret = true ↔ ∃ kind l rest, s.ctx = .code kind l none :: rest ∧ kind ≠ .fg := by
  have hret : s.enabled .ret = true ↔ s.canReturn = true := Iff.rfl
  rw [hret, canReturn_iff]
  constructor
  · rintro (⟨c, l, rest, hctx⟩ | ⟨p, j, l, rest, hctx⟩)
    · exact ⟨_, l, rest, hctx, nofun⟩
    · exact ⟨_, l, rest, hctx, nofun⟩
  · rintro ⟨kind, l, rest, hctx, hcallback⟩
    cases kind with
    | fg => exact absurd rfl hcallback
    | timerCB c => exact .inl ⟨c, l, rest, hctx⟩
    | pinCB p j => exact .inr ⟨p, j, l, rest, hctx⟩

/-- R320: the step of a callback on top that does not spin is its return. -/
theorem stepOn_ret {kind : ContextKind} {l : Level} {rest : List Context} (hlive : s.Live)
    (hctx : s.ctx = .code kind l none :: rest) (hcallback : kind ≠ .fg) :
    stepOn .ret s = .next s.returnFromCallback :=
  stepOn_enabled hlive ((enabled_ret_iff s).2 ⟨kind, l, rest, hctx, hcallback⟩)

/-- R320: a timer callback's return takes its entry off the stack and ends the service. -/
theorem returnFromCallback_of_timerCB {c : Index} {l : Level} {rest : List Context}
    (hctx : s.ctx = .code (.timerCB c) l none :: rest) : s.returnFromCallback = { s with ctx := rest } := by
  rw [State.returnFromCallback, hctx]

/-- R320: a pin callback's return on a dispatch clears the pin's change flag and sends the dispatch to the next pin. -/
theorem returnFromCallback_of_pinCB {p p' j : Index} {l l' : Level} {k : Nat} {rest : List Context}
    (hctx : s.ctx = .code (.pinCB p j) l none :: .dispatch p' l' k :: rest) :
    s.returnFromCallback =
      State.setPin { s with ctx := .dispatch p' l' (j.toNat + 1) :: rest } p j
        { s.pinAt p j with changeFlag := false } := by
  rw [State.returnFromCallback, hctx]
  rfl

/-- Settles O50: the foreground is the one kind of code context that no Return pops; the two callbacks differ in what
lies beneath them. -/
theorem returnResumesInterruptedContext : Obligations.ReturnResumesInterruptedContext := by
  refine ⟨enabled_ret_iff, fun s rest hlive => ⟨fun c l hctx => ?_, fun p j l l' k hctx => ?_⟩⟩
  · rw [stepOn_ret hlive hctx nofun, returnFromCallback_of_timerCB hctx]
  · have hstep := stepOn_ret hlive hctx nofun
    rw [returnFromCallback_of_pinCB hctx] at hstep
    obtain ⟨hframe, hpins, hpin⟩ :=
      State.setPin_frame { s with ctx := .dispatch p l' (j.toNat + 1) :: rest } p j
        { s.pinAt p j with changeFlag := false }
    exact ⟨_, hstep, hframe, hpins, hpin⟩

/-! ### Model faults (R304) -/

/-- R304: in an admitted configuration a machine with a model fault stops with that fault. -/
theorem step_of_fault {r : Fault} (wf : s.cfg.wellFormed = true) (hfault : s.fault = some r) : step s = .fault r := by
  rw [step, advance, if_pos wf, hfault]

/-- R304: a run of one step more, where its first step answers a next state, is the run of the rest. -/
theorem run_succ_of_step {u : State} (m : Nat) (h : step s = .next u) :
    Sys2Proof.core.run (m + 1) s = Sys2Proof.core.run m u := by
  have hcore : Sys2Proof.core.step s = .next u := h
  simp only [Host.Core.run, hcore]

/-- R304: every state on the way of a run that ends successfully can take steps, so none of them holds a fault. -/
theorem SucceedsIn.live_of_run {m n : Nat} {v : State} (hv : SucceedsIn n s v) (hmn : m ≤ n)
    (ht : Sys2Proof.core.run m s = .next t) : t.Live := by
  induction m generalizing n s with
  | zero => exact (Host.Outcome.next.inj ht : s = t) ▸ hv.live
  | succ m ih =>
    obtain ⟨n, rfl⟩ := Nat.exists_eq_add_one_of_ne_zero (Nat.ne_zero_of_lt hmn)
    obtain ⟨u, hstep, hrest⟩ := succeedsIn_succ.1 hv
    exact ih hrest (Nat.le_of_succ_le_succ hmn) (run_succ_of_step m hstep ▸ ht)

/-- Settles O7: a faulted state answers its fault to whatever choice it is offered, and is not on the way of a run that
ends successfully. -/
theorem faultedMachineTakesNoStep : Obligations.FaultedMachineTakesNoStep := by
  refine ⟨fun s r wf hfault => ⟨step_of_fault wf hfault, fun e t hnext => ?_⟩, fun _ => rfl,
    fun m n s t hmn hrun hfault hsafe => ?_⟩
  · have hstop : stepOn e s = .fault r := step_of_fault (s := { s with inbox := e :: s.inbox }) wf hfault
    rw [hstop] at hnext
    cases hnext
  · obtain ⟨v, hv⟩ := hsafe
    obtain ⟨-, hnone⟩ := hv.live_of_run hmn hrun
    exact hfault hnone

end Sys2Proof.Machine
end

section
/-! Proofs of the statements of spec/70_reset_and_hazards.md: what the state after reset holds at every index of every
bank, and that a model fault outlives every step. -/

namespace Sys2Proof.Machine

/-! ### The state after reset (R340) -/

@[simp] theorem State.resetWith_tmrAt (cfg : Config) (c : Index) : (State.resetWith cfg).tmrAt c = .reset :=
  bankGet_replicate ..

@[simp] theorem State.resetWith_portAt (cfg : Config) (p : Index) : (State.resetWith cfg).portAt p = .reset :=
  bankGet_replicate ..

@[simp] theorem State.resetWith_pinAt (cfg : Config) (p i : Index) : (State.resetWith cfg).pinAt p i = .reset := by
  simp only [State.pinAt, State.resetWith, bankGet_replicate]

/-- R340: the foreground is the only context, and it runs at level 0. -/
@[simp] theorem State.resetWith_currentLevel (cfg : Config) : (State.resetWith cfg).currentLevel = 0 := rfl

/-- R340, R310: every channel and every port is created disabled, so each kind of source is masked. -/
theorem State.resetWith_unmasked (cfg : Config) (src : Source) : (State.resetWith cfg).unmasked src = false := by
  cases src with
  | tmr c => simp [State.unmasked, TimerChannel.reset]
  | pwmA c => simp [State.unmasked, PwmChannel.reset]
  | pwmB c => simp [State.unmasked, PwmChannel.reset]
  | pcn p => simp [State.unmasked, Port.reset]

/-- R340, R310: every interrupt flag is created clear, so no kind of source is pending. -/
theorem State.resetWith_pending (cfg : Config) (src : Source) : (State.resetWith cfg).pending src = false := by
  cases src with
  | tmr c => simp [State.pending, TimerChannel.reset]
  | pwmA c => simp [State.pending, PwmChannel.reset]
  | pwmB c => simp [State.pending, PwmChannel.reset]
  | pcn p => simp [State.pending, Port.reset]

/-! ### A model fault is cleared by no step (R304, R340) -/

/-- R304: in any configuration, admitted or not, a state that holds a fault has no next state. -/
theorem step_ne_next_of_fault {s t : State} (hfault : s.fault ≠ none) : step s ≠ .next t := fun hnext => by
  obtain ⟨⟨-, hnone⟩, -⟩ := step_eq_next hnext
  exact hfault hnone

/-- Settles O11: each bank of the state after reset holds one and the same reset value at every index, and only a state
without a fault has a next state, so a fault stays until reset. -/
theorem resetLeavesEveryFieldAsListed : Obligations.ResetLeavesEveryFieldAsListed := by
  refine ⟨fun cfg => ?_, fun _ _ => step_ne_next_of_fault⟩
  exact ⟨rfl, State.resetWith_tmrAt cfg, rfl, State.resetWith_pwmAt cfg, State.resetWith_pinAt cfg,
    State.resetWith_portAt cfg, rfl, rfl, rfl, rfl, State.resetWith_currentLevel cfg,
    fun src => ⟨State.resetWith_unmasked cfg src, State.resetWith_pending cfg src⟩⟩

end Sys2Proof.Machine
end

section
/-! Proofs of the remaining statements of spec/30_encoding.md: the words listed in spec/95_test_vectors.md, and encoding
a decoded command. -/

namespace Sys2Proof

/-- R103, R105: a row builds its command from any header with the row's OP and no stray field, and the command's header
is that header: the fields the row uses are kept, the others are zero in both. -/
theorem Opcode.header_build {o : Opcode} {h : Header} (hop : h.op = o.code) (hstray : h.strayFree o.fields = true)
    (w1 w2 : Word) : (o.build h w1 w2).header = h := by
  cases h
  cases o <;>
    simp_all [Opcode.build, Instr.header, Opcode.header, Instr.opcode, Header.strayFree, Opcode.fields,
      TimeUnit.toBit_ofBit]

/-- R103: a row keeps operand word W1 exactly where it uses it. -/
theorem Opcode.w1_build (o : Opcode) (h : Header) (w1 w2 : Word) :
    (o.build h w1 w2).w1 = if o.usesW1 then w1 else 0 := by cases o <;> rfl

/-- R103: a row keeps operand word W2 exactly where it uses it. -/
theorem Opcode.w2_build (o : Opcode) (h : Header) (w1 w2 : Word) :
    (o.build h w1 w2).w2 = if o.usesW2 then w2 else 0 := by cases o <;> rfl

/-- Settles O2: the command is built by the row of its OP, which keeps the header whole and the operand words it
uses. -/
theorem encodeOfDecodeKeepsEveryUsedBit : Obligations.EncodeOfDecodeKeepsEveryUsedBit := by
  intro c i hi
  obtain ⟨o, hop, hstray, rfl⟩ := decode_eq_ok hi
  rw [Opcode.opcode_build]
  refine ⟨?_, o.w1_build .., o.w2_build ..⟩
  rw [encode, Opcode.header_build (Opcode.code_of_ofCode hop) hstray, Header.toWord_ofWord]

/-- Settles O4: each listed word is read field by field. -/
theorem listedWordsDecode : Obligations.ListedWordsDecode :=
  ⟨rfl, rfl, rfl, rfl, rfl, rfl, rfl, rfl, rfl, rfl, rfl, rfl, rfl⟩

end Sys2Proof
end

section
/-! Proofs of the statements on what a command can answer (spec/45_status_and_control.md section 1,
spec/60_exceptions.md section 1): its outcomes, the statuses and faults of each row, and the three commands that read a
counter. -/

namespace Sys2Proof

/-- R101: W0 of a command that uses no field but PORT, with the unused fields above it taken together and CH beside
OP. -/
theorem Header.toWord_spur (port : Index) :
    0#18 ++ port ++ 0x21#10 = Header.toWord ⟨0x21, 0, port, 0, 0, 0, 0, 0⟩ := by
  have hzero : 0#18 = 0#8 ++ 0#2 ++ 0#1 ++ 0#3 ++ 0#4 := rfl
  have hop : 0x21#10 = 0#4 ++ 0x21#6 := rfl
  rw [hzero, hop]
  exact (BitVec.append_assoc (x₁ := 0#8 ++ 0#2 ++ 0#1 ++ 0#3 ++ 0#4 ++ port) (x₂ := 0#4) (x₃ := 0x21#6)).symm

end Sys2Proof

namespace Sys2Proof.Machine

variable {s t : State} {o : Opcode} {st : Status} {r : Fault}

/-! ### The commands that read a counter (R156, R207, R242) -/

theorem exec_tmiss (ch : Index) (s : State) :
    exec (.tmiss ch) s =
      if ch.toNat ≥ s.cfg.nTmr then .next (s.errResult .tmiss .configErr)
      else .next (s.okResult .tmiss (s.tmrAt ch).missed) := rfl

/-- Settles O21: the counter is read, or the channel does not exist. -/
theorem tmissReadsMissed : Obligations.TmissReadsMissed := by
  refine ⟨fun ch w1 w2 => ?_, fun s ch => ⟨fun hout => ?_, fun hin => ?_⟩⟩
  · rw [Header.toWord_channel]
    exact decode_header (.tmiss ch) w1 w2
  · rw [exec_tmiss, if_pos hout]
  · rw [exec_tmiss, if_neg (Nat.not_le.2 hin)]

theorem exec_pmiss (ch : Index) (s : State) :
    exec (.pmiss ch) s =
      if ch.toNat ≥ s.cfg.nPwm then .next (s.errResult .pmiss .configErr)
      else .next (s.okResult .pmiss (s.pwmAt ch).missed) := rfl

/-- Settles O28: the counter is read, or the channel does not exist. -/
theorem pmissReadsMissed : Obligations.PmissReadsMissed := by
  refine ⟨fun ch w1 w2 => ?_, fun s ch => ⟨fun hout => ?_, fun hin => ?_⟩⟩
  · rw [Header.toWord_channel]
    exact decode_header (.pmiss ch) w1 w2
  · rw [exec_pmiss, if_pos hout]
  · rw [exec_pmiss, if_neg (Nat.not_le.2 hin)]

theorem exec_spur (port : Index) (s : State) :
    exec (.spur port) s =
      if port.toNat ≥ s.cfg.nPort then .next (s.errResult .spur .configErr)
      else .next (s.okResult .spur (s.portAt port).spurious) := rfl

/-- Settles O30: the counter is read, or the port does not exist. -/
theorem spurReadsSpurious : Obligations.SpurReadsSpurious := by
  refine ⟨fun port w1 w2 => ?_, fun s port => ⟨fun hout => ?_, fun hin => ?_⟩⟩
  · rw [Header.toWord_spur]
    exact decode_header (.spur port) w1 w2
  · rw [exec_spur, if_pos hout]
  · rw [exec_spur, if_neg (Nat.not_le.2 hin)]

/-! ### The outcomes of a command (R271, R300, R301, R303) -/

/-- R301: a command of the row `o` may return the error `st`. -/
def MayReturn (o : Opcode) : Status → Prop
  | .configErr => o ∉ ([.nop, .millis, .wait, .rderr] : List Opcode)
  | .conflictErr => o ∈ ([.pcfg, .bind] : List Opcode)
  | .ok | .illegal => False

/-- R303: a command of the row `o` may raise the fault `r`. -/
def MayRaise (o : Opcode) (r : Fault) : Prop :=
  (r = .freqChangeAfterConfigure ∧ o = .setfreq) ∨
  (r ∈ ([.freqUnset, .reconfigureWhileRunning] : List Fault) ∧ o ∈ ([.tcfg, .pcfg] : List Opcode)) ∨
  (r = .pinMaskInvalid ∧ o = .pcfg)

/-- R271: the states in which a command of the row `o` may leave the state `s`: completed with OK, spinning in a WAIT,
or failed in a way its row lists, with the rest of the state as it was. -/
inductive CommandOutcome (o : Opcode) (s : State) : State → Prop where
  | completes {t : State} (v : Word) (new : List LogEvent)
      (hevents : t.events = s.events ++ new ++ [.result (.op o) .ok v]) (hfault : t.fault = s.fault) :
      CommandOutcome o s t
  | waits {t : State} (hrow : o = .wait) (hevents : t.events = s.events) (hfault : t.fault = s.fault) :
      CommandOutcome o s t
  | fails {st : Status} (hst : MayReturn o st) : CommandOutcome o s (s.errResult o st)
  | faults {r : Fault} (hr : MayRaise o r) : CommandOutcome o s (s.faulted r)

/-- R271: the meaning answers a next state, one of the row's outcomes. -/
def Answers (o : Opcode) (s : State) (m : Result) : Prop := ∃ t, m = .next t ∧ CommandOutcome o s t

namespace Answers

theorem completes {u : State} (v : Word) (hevents : u.events = s.events := by rfl)
    (hfault : u.fault = s.fault := by rfl) : Answers o s (finish o .ok v u) :=
  ⟨_, rfl, .completes v [] (by rw [List.append_nil, ← hevents]; rfl) hfault⟩

theorem fails (hst : MayReturn o st) : Answers o s (fail o st s) := by
  have herr : st ≠ .ok := fun h => by rw [h] at hst; exact hst
  refine ⟨s.errResult o st, ?_, .fails hst⟩
  simp only [fail, finish, State.complete, if_neg herr, State.errResult]

theorem configErr (hrow : o ∉ ([.nop, .millis, .wait, .rderr] : List Opcode) := by simp [Instr.opcode]) :
    Answers o s (fail o .configErr s) := .fails (st := .configErr) hrow

theorem conflictErr (hrow : o ∈ ([.pcfg, .bind] : List Opcode) := by simp [Instr.opcode]) :
    Answers o s (fail o .conflictErr s) := .fails (st := .conflictErr) hrow

theorem faults (hr : MayRaise o r) : Answers o s (raiseFault r s) := ⟨_, rfl, .faults hr⟩

theorem ite {c : Prop} [Decidable c] {m m' : Result} (h : Answers o s m) (h' : Answers o s m') :
    Answers o s (if c then m else m') := by
  split
  · exact h
  · exact h'

end Answers

/-- R271: each check of each command answers an error or a fault of its row, and past the checks the command completes
or starts its WAIT. -/
theorem exec_answers (s : State) : ∀ i : Instr, Answers i.opcode s (exec i s)
  | .nop => .completes 0
  | .setfreq _ => .ite .configErr <| .ite (.completes 0) <| .ite (.faults (.inl ⟨rfl, rfl⟩)) (.completes 0)
  | .getfreq => by
      simp only [exec, execGetfreq]
      split
      · exact .completes _
      · exact .configErr
  | .getrate _ => by
      simp only [exec, execGetrate]
      split
      · exact .completes _
      · exact .configErr
  | .tcfg .. => by
      simp only [exec, execTcfg]
      refine .ite .configErr ?_
      split
      · exact .faults (.inr (.inl (by simp [Instr.opcode])))
      · exact .ite (.faults (.inr (.inl (by simp [Instr.opcode])))) <| .ite .configErr <| .ite .configErr <|
          .ite .configErr (.completes 0)
  | .tstart _ => .ite .configErr <| .ite (.completes 0) <|
      .completes 0 (by rw [State.zeroMillis_ite]; rfl) (by rw [State.zeroMillis_ite]; rfl)
  | .tstop _ => .ite .configErr (.completes 0)
  | .tsetiv .. => .ite .configErr <| .ite .configErr <| .ite .configErr <| .ite .configErr (.completes 0)
  | .tmiss _ => .ite .configErr (.completes _)
  | .millis => .completes _
  | .wait _ => ⟨_, rfl, .waits rfl rfl rfl⟩
  | .pcfg .. => by
      simp only [exec, execPcfg]
      refine .ite .configErr ?_
      split
      · exact .faults (.inr (.inl (by simp [Instr.opcode])))
      · exact .ite (.faults (.inr (.inl (by simp [Instr.opcode])))) <| .ite (.faults (.inr (.inr ⟨rfl, rfl⟩))) <|
          .ite .configErr <| .ite .conflictErr (.completes 0)
  | .pduty .. => .ite .configErr (.completes 0)
  | .pstart _ => .ite .configErr <| .ite (.completes 0) ⟨_, rfl, .completes 0 [_] rfl rfl⟩
  | .pstop _ => .ite .configErr (.completes 0)
  | .pmiss _ => .ite .configErr (.completes _)
  | .bind .. => .ite .configErr <| .ite .configErr <| .ite .conflictErr (.completes 0)
  | .spur _ => .ite .configErr (.completes _)
  | .rderr => .completes _

/-- R301: an error is the outcome of a row only where the row may return it: the log holds its result, which no other
outcome leaves there. -/
theorem CommandOutcome.mayReturn (h : CommandOutcome o s t) (hst : st ≠ .ok) (ht : t = s.errResult o st) :
    MayReturn o st := by
  have hlog : t.events = s.events ++ [.result (.op o) st 0] := congrArg State.events ht
  cases h with
  | completes v new hevents hfault =>
    rw [hlog, List.append_assoc] at hevents
    have hlast := congrArg List.getLast? (List.append_cancel_left hevents)
    simp only [List.getLast?_singleton, List.getLast?_append, Option.some_or] at hlast
    cases hlast
    exact absurd rfl hst
  | waits hrow hevents hfault =>
    rw [hevents] at hlog
    simp at hlog
  | fails hst' =>
    cases List.append_cancel_left hlog
    exact hst'
  | faults hr => simp [State.faulted] at hlog

/-- R303: a fault is the outcome of a row only where the row may raise it. -/
theorem CommandOutcome.mayRaise (h : CommandOutcome o s t) (hs : s.fault = none) (ht : t.fault = some r) :
    MayRaise o r := by
  cases h with
  | completes v new hevents hfault => rw [hfault, hs] at ht; cases ht
  | waits hrow hevents hfault => rw [hfault, hs] at ht; cases ht
  | fails hst => exact absurd (hs.symm.trans ht) nofun
  | faults hr => exact Option.some.inj ht ▸ hr

/-- Settles O32: the outcomes of a row are those the statement lists. -/
theorem failingCommandChangesNothing : Obligations.FailingCommandChangesNothing := by
  intro i s
  obtain ⟨t, ht, hout⟩ := exec_answers s i
  refine ⟨t, ht, ?_⟩
  cases hout with
  | completes v new hevents hfault => exact .inl ⟨v, new, hevents, hfault⟩
  | waits hrow hevents hfault => exact .inr (.inl ⟨hrow, hevents, hfault⟩)
  | @fails st hst =>
    refine .inr (.inr (.inl ⟨st, ?_, ?_, rfl⟩))
    · rintro rfl
      exact hst
    · rintro rfl
      exact hst
  | faults hr => exact .inr (.inr (.inr ⟨_, rfl⟩))

/-- Settles O33: an outcome tells its status or fault from every other one, and each row's are listed. -/
theorem onlyListedCommandsFail : Obligations.OnlyListedCommandsFail := by
  intro i s t h
  obtain ⟨u, hu, hout⟩ := exec_answers s i
  obtain rfl : u = t := Host.Outcome.next.inj (hu.symm.trans h)
  exact ⟨hout.mayReturn (st := .configErr) nofun, hout.mayReturn (st := .conflictErr) nofun, fun _ => hout.mayRaise⟩

/-- Settles O9: every command answers a next state, and so does every other step. -/
theorem liveMachineAlwaysSteps : Obligations.LiveMachineAlwaysSteps := by
  intro s hlive
  rw [step_live hlive, runEvent]
  split
  · generalize s.nextChoice.1 = e
    cases e with
    | issue w0 w1 w2 =>
      rcases issue_cases ⟨w0, w1, w2⟩ s.nextChoice.2 with ⟨i, -, hi⟩ | ⟨-, hi⟩
      · obtain ⟨t, ht, -⟩ := exec_answers s.nextChoice.2 i
        exact ⟨t, hi.trans ht⟩
      · exact ⟨_, hi⟩
    | tick | take | dispatchStep | ret | spin | pinEdge | spuriousFlag => exact ⟨_, rfl⟩
  · exact ⟨_, rfl⟩

end Sys2Proof.Machine
end

section
/-! Proofs of the rules of the whole machine: how a step reads and passes over its choice (spec/00_scope.md section 4,
spec/45_status_and_control.md section 1), the steps before the first command (spec/70_reset_and_hazards.md R341), and
what no step changes or only some steps write (spec/10_state.md, spec/20_memory.md section 3). -/

namespace Sys2Proof.Machine

variable {s t : State} {e : Event} {i : Instr}

/-! ### Steps (R13, R270) -/

/-- R13: a step passes its choice over, or performs it where its rule enables it. -/
theorem step_cases (h : step s = .next t) :
    (s.enabled s.nextChoice.1 = false ∧ t = s.nextChoice.2) ∨
    (s.enabled s.nextChoice.1 = true ∧ perform s.nextChoice.1 s.nextChoice.2 = .next t) := by
  simpa only [enabled_nextChoice] using runEvent_cases (step_eq_next h).2

/-- Settles O10: the choice is read, found not enabled and passed over. -/
theorem disabledChoiceChangesNothing : Obligations.DisabledChoiceChangesNothing := fun e s hlive hoff => by
  rw [stepOn_live e hlive, runEvent_disabled hoff]

/-- R335: a live machine runs the nearest choice it holds. -/
theorem step_of_inbox {rest : List Event} (hlive : s.Live) (hin : s.inbox = e :: rest) :
    step s = runEvent e { s with inbox := rest } := by
  rw [step_live hlive, State.nextChoice, hin]

/-- R270: Issue is enabled exactly where a code context that does not spin is on top. -/
theorem enabled_issue_iff (s : State) (w0 w1 w2 : Word) :
    s.enabled (.issue w0 w1 w2) = true ↔ ∃ k l below, s.ctx = .code k l none :: below := codeOnTop_iff s

/-- R270: where such a context is on top, offered words are issued. -/
theorem step_of_offered {w0 w1 w2 : Word} {rest : List Event} {k : ContextKind} {l : Level} {below : List Context}
    (hlive : s.Live) (hin : s.inbox = .issue w0 w1 w2 :: rest) (hctx : s.ctx = .code k l none :: below) :
    step s = issue ⟨w0, w1, w2⟩ { s with inbox := rest } := by
  have henabled : State.enabled { s with inbox := rest } (.issue w0 w1 w2) = true :=
    (enabled_issue_iff _ w0 w1 w2).2 ⟨k, l, below, hctx⟩
  rw [step_of_inbox hlive hin, runEvent, if_pos henabled, perform]

/-- Settles O6: the offered words are issued, which is the meaning of the command they decode to, if any. -/
theorem stepRunsDecodedCommand : Obligations.StepRunsDecodedCommand := by
  refine ⟨fun s w0 w1 w2 rest k l below hlive hin hctx => ⟨fun i hi => ?_, fun hnone => ?_⟩, enabled_issue_iff,
    fun s w0 w1 w2 p l k below hctx => ?_⟩
  · rw [step_of_offered hlive hin hctx, issue, hi]
  · rw [step_of_offered hlive hin hctx, issue_of_no_command hnone]
  · rw [Bool.eq_false_iff, ne_eq, enabled_issue_iff, hctx]
    rintro ⟨k', l', below', hcode⟩
    cases hcode

/-! ### Before the first command (R341) -/

/-- R160: a Tick writes the timer and the PWM channels. -/
theorem tick_frame (s : State) : tick s = { s with tmr := (tick s).tmr, pwm := (tick s).pwm } := rfl

/-- R160: a stopped timer channel does not count. -/
theorem tickTimer_of_stopped {u : TimerChannel} (h : u.enabled = false) : tickTimer u = u :=
  if_neg (Bool.eq_false_iff.1 h)

/-- R160: a Tick of a block whose channels are all stopped changes nothing. -/
theorem tick_of_stopped (htmr : ∀ c, (s.tmrAt c).enabled = false) (hpwm : ∀ c, (s.pwmAt c).enabled = false) :
    tick s = s := by
  have timers : (tick s).tmr = s.tmr := bank_ext fun c => by
    have := s.tmrAt_tick c
    rwa [tickTimer_of_stopped (htmr c), ite_self] at this
  have pwms : (tick s).pwm = s.pwm := bank_ext fun c => by
    have := s.pwmAt_tick c
    rwa [tickPwm_of_stopped (hpwm c), ite_self] at this
  rw [tick_frame, timers, pwms]

/-- R251: setting flags masks and unmasks no source. -/
theorem spuriousFlag_unmasked (p i : Index) (src : Source) : (spuriousFlag p i s).unmasked src = s.unmasked src := by
  cases src with
  | tmr | pwmA | pwmB => rfl
  | pcn p' =>
    have hport : (spuriousFlag p i s).portAt p' = if p' = p then { s.portAt p with flag := true } else s.portAt p' :=
      State.portAt_setPort ..
    simp only [State.unmasked, hport]
    split
    next heq => rw [heq]
    next => rfl

/-- R312: choosing the Take of a masked source changes nothing. -/
theorem stepOn_take_of_masked {src : Source} (hlive : s.Live) (hmask : s.unmasked src = false) :
    stepOn (.take src) s = .next s :=
  disabledChoiceChangesNothing _ s hlive (State.takeable_eq_false_of_masked hmask)

/-- R250: an edge on a pin that is not monitored, or does not exist, changes nothing. -/
theorem stepOn_pinEdge_of_unmonitored {p j : Index} (hlive : s.Live) (hedge : (s.pinAt p j).edge = .none)
    (dir : EdgeDir) : stepOn (.pinEdge p j dir) s = .next s := by
  cases henabled : s.enabled (.pinEdge p j dir) with
  | false => exact disabledChoiceChangesNothing _ s hlive henabled
  | true =>
    have hmismatch := (edgeMatches_eq_false_iff _ dir).2 (.inl hedge)
    rw [stepOn_enabled hlive henabled, perform, pinEdge_of_mismatch hmismatch]

/-- Settles O12: after reset every channel is stopped, no pin is monitored and every source is masked. -/
theorem stepsBeforeFirstCommand : Obligations.StepsBeforeFirstCommand := by
  intro cfg wf
  have hlive : (State.resetWith cfg).Live := ⟨wf, rfl⟩
  refine ⟨?_, fun p i dir => stepOn_pinEdge_of_unmonitored hlive (by simp [Pin.reset]) dir, fun p i hport hpin => ?_⟩
  · rw [stepOn_enabled hlive rfl, perform, tick_of_stopped (by simp [TimerChannel.reset]) (by simp [PwmChannel.reset])]
  · obtain ⟨hframe, -, -, hflag, hportflag⟩ :=
      State.setPin_setPort_frame (t := spuriousFlag p i (State.resetWith cfg)) rfl
    have masked : ∀ src, (spuriousFlag p i (State.resetWith cfg)).unmasked src = false := fun src => by
      rw [spuriousFlag_unmasked, State.resetWith_unmasked]
    exact ⟨_, stepOn_enabled hlive (decide_eq_true ⟨hport, hpin⟩), hframe, congrArg Pin.changeFlag hflag,
      congrArg Port.flag hportflag, masked (.pcn p), fun src =>
        ⟨State.takeable_eq_false_of_masked (masked src), stepOn_take_of_masked hlive (masked src)⟩⟩

/-! ### The parameters (R7, R30) -/

/-- Settles O34: reading a choice and every effect keep the parameters. -/
theorem parametersNeverChange : Obligations.ParametersNeverChange := by
  intro s t h
  rcases step_cases h with ⟨-, rfl⟩ | ⟨-, hp⟩
  · exact nextChoice_cfg s
  · rw [perform_cfg hp, nextChoice_cfg]

/-! ### The wait counter (R89, R193) -/

/-- Settles O37: of the writers of the millisecond clock, the service of channel 0 counts the wait counter during a
WAIT, and WAIT and the TSTART of stopped channel 0 zero it. -/
theorem waitCounterHasOneWriterEach : Obligations.WaitCounterHasOneWriterEach := by
  intro s t h
  rcases step_cases h with ⟨-, rfl⟩ | ⟨hen, hp⟩
  · exact .inl (by simp)
  rcases perform_ms hp with hms | ⟨he, hms⟩ | ⟨-, hms⟩ | ⟨w0, w1, w2, he, ⟨hd, hoff, hms⟩ | ⟨d, hd, hms⟩⟩
  · exact .inl (by simp [hms])
  · cases hwait : s.ms.isWaiting with
    | false => exact .inl (by simp [hms, MsClock.served, hwait])
    | true => exact .inr (.inl ⟨he, by rwa [he] at hen, rfl, by simp [hms, MsClock.served, hwait]⟩)
  · exact .inl (by simp [hms])
  · exact .inr (.inr ⟨w0, w1, w2, he, by rw [hms], .inr ⟨hd, by simpa using hoff⟩⟩)
  · exact .inr (.inr ⟨w0, w1, w2, he, by rw [hms], .inl ⟨d, hd⟩⟩)

/-! ### A stopped timer channel (R155, R163) -/

/-- Outside the commands, a timer channel is written by a Tick and by its own service (R160, R180). -/
theorem perform_tmrAt (h : perform e s = .next t) (c : Index) :
    RunsCommand e s t ∨
    t.tmrAt c = s.tmrAt c ∨
    (e = .tick ∧ t.tmrAt c = tickTimer (s.tmrAt c)) ∨
    (e = .take (.tmr c) ∧ t.tmrAt c = (s.tmrAt c).served) := by
  rcases perform_cases h with hx | ⟨_, _, _, -, -, rfl⟩ | ⟨he, rfl⟩ | ⟨k, he, rfl⟩ | ⟨_, -, rfl⟩ | ⟨_, -, rfl⟩ |
    ⟨_, -, rfl⟩ | ⟨-, rfl⟩ | ⟨-, rfl⟩ | ⟨-, rfl⟩ | ⟨_, _, _, -, rfl⟩ | ⟨_, _, -, rfl⟩
  · exact .inl hx
  · exact .inr (.inl rfl)
  · by_cases hc : c.toNat < s.cfg.nTmr
    · exact .inr (.inr (.inl ⟨he, by rw [State.tmrAt_tick, if_pos hc]⟩))
    · exact .inr (.inl (by rw [State.tmrAt_tick, if_neg hc]))
  · by_cases hc : c = k
    · exact .inr (.inr (.inr ⟨hc ▸ he, by rw [tmrAt_timerService, if_pos hc, hc]⟩))
    · exact .inr (.inl (by rw [tmrAt_timerService, if_neg hc]))
  all_goals exact .inr (.inl (by simp))

/-- R217: service B logs at most the drive of its pin. -/
theorem pwmServiceB_events (c : Index) (s : State) :
    (pwmServiceB c s).events = s.events ∨
    (pwmServiceB c s).events = s.events ++ [.drive (s.pwmAt c).port (s.pwmAt c).pinIndex .low] := by
  unfold pwmServiceB
  split
  · exact .inr rfl
  · exact .inl rfl

/-- R255, R318: a DispatchStep logs at most the callback of a pin. -/
theorem dispatchStep_events (s : State) :
    (dispatchStep s).events = s.events ∨
    ∃ p j hd, (dispatchStep s).events = s.events ++ [.invoke (.pin p j) hd] := by
  unfold dispatchStep dispatchPort
  split
  · split
    · exact .inl rfl
    · split
      · exact .inr ⟨_, _, _, rfl⟩
      · exact .inl rfl
  · exact .inl rfl

/-- R192: a Spin logs at most the result of its WAIT. -/
theorem spin_events (d : Word) (s : State) :
    (spin d s).events = s.events ∨ (spin d s).events = s.events ++ [.result (.op .wait) .ok 0] := by
  unfold spin
  split
  · exact .inr rfl
  · exact .inl rfl

/-- R181, R318: no callback of timer channel `c` is logged between two states: the log grew by other entries. -/
def NoTimerCallback (c : Index) (s t : State) : Prop :=
  ∃ new, t.events = s.events ++ new ∧ ∀ hd, LogEvent.invoke (.tmr c) hd ∉ new

namespace NoTimerCallback

variable {c : Index}

theorem of_eq (h : t.events = s.events) : NoTimerCallback c s t := ⟨[], by rw [h, List.append_nil], by simp⟩

theorem of_entry {x : LogEvent} (h : t.events = s.events ++ [x]) (hx : ∀ hd, x ≠ .invoke (.tmr c) hd) :
    NoTimerCallback c s t := ⟨[x], h, fun hd hmem => hx hd (List.mem_singleton.1 hmem).symm⟩

theorem count_eq (h : NoTimerCallback c s t) (hd : HandlerId) :
    t.events.count (.invoke (.tmr c) hd) = s.events.count (.invoke (.tmr c) hd) := by
  obtain ⟨new, hnew, hnone⟩ := h
  rw [hnew, List.count_append, List.count_eq_zero.2 (hnone hd), Nat.add_zero]

end NoTimerCallback

/-- R181: a callback of a timer channel begins in a service of that channel only. -/
theorem perform_noTimerCallback {c : Index} (h : perform e s = .next t) (he : e ≠ .take (.tmr c)) :
    NoTimerCallback c s t := by
  rcases perform_cases h with ⟨_, _, _, _, -, -, hx⟩ | ⟨_, _, _, -, -, rfl⟩ | ⟨-, rfl⟩ | ⟨k, rfl, rfl⟩ | ⟨_, -, rfl⟩ |
    ⟨k, -, rfl⟩ | ⟨_, -, rfl⟩ | ⟨-, rfl⟩ | ⟨-, rfl⟩ | ⟨-, rfl⟩ | ⟨_, _, _, -, rfl⟩ | ⟨_, _, -, rfl⟩
  · obtain ⟨new, hnew, hnone⟩ := exec_events hx
    exact ⟨new, hnew, hnone (.tmr c)⟩
  · exact .of_entry rfl nofun
  · exact .of_eq (tick_events s)
  · rcases timerService_callback (s := s) k with ⟨-, -, hlog⟩ | ⟨-, -, hlog⟩
    · refine .of_entry hlog fun hd heq => he ?_
      cases heq
      rfl
    · exact .of_eq hlog
  · exact .of_entry rfl nofun
  · rcases pwmServiceB_events k s with hlog | hlog
    · exact .of_eq hlog
    · exact .of_entry hlog nofun
  · exact .of_eq rfl
  · rcases dispatchStep_events s with hlog | ⟨_, _, _, hlog⟩
    · exact .of_eq hlog
    · exact .of_entry hlog nofun
  · exact .of_eq (returnFromCallback_events s)
  · rcases spin_events (s.spinning.getD 0) s with hlog | hlog
    · exact .of_eq hlog
    · exact .of_entry hlog nofun
  · exact .of_eq (pinEdge_events s _ _ _)
  · exact .of_eq rfl

/-- R312: a stopped timer channel is masked, so its service is not enabled. -/
theorem not_takes_of_stopped {c : Index} (hoff : (s.tmrAt c).enabled = false) (hen : s.enabled e = true) :
    e ≠ .take (.tmr c) := by
  rintro rfl
  have : s.takeable (.tmr c) = false := State.takeable_eq_false_of_masked hoff
  simp [this] at hen

/-- R155, R163: every effect but a TSTART of it keeps a stopped channel stopped, and only a TCFG of it touches its
counter. -/
theorem perform_keeps_stopped {c : Index} (h : perform e s = .next t) (hoff : (s.tmrAt c).enabled = false)
    (hstart : ∀ w0 w1 w2, e = .issue w0 w1 w2 → decode ⟨w0, w1, w2⟩ ≠ .ok (.tstart c)) :
    (t.tmrAt c).enabled = false ∧
    ((t.tmrAt c).counter = (s.tmrAt c).counter ∨
      ((t.tmrAt c).counter = 0 ∧ ∃ w0 w1 w2 prio unit h iv ps, e = .issue w0 w1 w2 ∧
        decode ⟨w0, w1, w2⟩ = .ok (.tcfg c prio unit h iv ps))) := by
  rcases perform_tmrAt h c with ⟨w0, w1, w2, i, he, hi, hx⟩ | hc | ⟨-, hc⟩ | ⟨-, hc⟩
  · rcases exec_tmrAt (c := c) hx with hc | ⟨rfl, -⟩ |
      ⟨prio, unit, hd, iv, ps, f, rfl, -, -, -, -, -, -, -, hc⟩ | ⟨-, hc⟩ | ⟨_, -, -, -, hc⟩
    · exact ⟨by rw [hc, hoff], .inl (by rw [hc])⟩
    · exact absurd hi (hstart w0 w1 w2 he)
    · exact ⟨by rw [hc]; exact hoff, .inr ⟨by rw [hc], w0, w1, w2, prio, unit, hd, iv, ps, he, hi⟩⟩
    · exact ⟨by rw [hc], .inl (by rw [hc])⟩
    · exact ⟨by rw [hc]; exact hoff, .inl (by rw [hc])⟩
  · exact ⟨by rw [hc, hoff], .inl (by rw [hc])⟩
  · rw [tickTimer_of_stopped hoff] at hc
    exact ⟨by rw [hc, hoff], .inl (by rw [hc])⟩
  · exact ⟨by rw [hc]; exact hoff, .inl (by rw [hc]; rfl)⟩

/-- Settles O38: a stopped channel's service is not enabled, and no other effect begins its callback or starts it but
its TSTART. -/
theorem stoppedTimerStaysSilent : Obligations.StoppedTimerStaysSilent := by
  intro s t c h hoff hstart
  rcases step_cases h with ⟨-, rfl⟩ | ⟨hen, hp⟩
  · exact ⟨by simpa using hoff, by simp, .inl (by simp)⟩
  have hlog := (perform_noTimerCallback hp (not_takes_of_stopped hoff hen)).count_eq
  obtain ⟨hstopped, hcounter⟩ := perform_keeps_stopped (c := c) hp (by simpa using hoff) hstart
  simp only [nextChoice_events, nextChoice_tmrAt] at hlog hcounter
  exact ⟨hstopped, hlog, hcounter⟩

end Sys2Proof.Machine
end

section
/-! Proof of the rule of spec/10_state.md R47 that no step reads the event log: a step from a state whose log holds
other earlier entries is the same step, with those entries before what it logs. -/

namespace Sys2Proof.Machine

/-- R47: the same state with earlier entries in its log. -/
def State.withPast (s : State) (past : List LogEvent) : State := { s with events := past ++ s.events }

/-- R47: the same outcome with earlier entries in its log. -/
def afterPast (past : List LogEvent) : Result → Result
  | .next t => .next (t.withPast past)
  | .fault r => .fault r
  | .refused r => .refused r

section

variable (s : State) (past : List LogEvent)

/-! ### What reads the state reads the same -/

@[simp] theorem State.withPast_cfg : (s.withPast past).cfg = s.cfg := rfl
@[simp] theorem State.withPast_freqSel : (s.withPast past).freqSel = s.freqSel := rfl
@[simp] theorem State.withPast_fault : (s.withPast past).fault = s.fault := rfl
@[simp] theorem State.withPast_ctx : (s.withPast past).ctx = s.ctx := rfl
@[simp] theorem State.withPast_inbox : (s.withPast past).inbox = s.inbox := rfl
@[simp] theorem State.withPast_nextFlagged (p : Index) (k : Nat) :
    (s.withPast past).nextFlagged p k = s.nextFlagged p k := rfl

@[simp] theorem State.withPast_enabled (e : Event) : (s.withPast past).enabled e = s.enabled e := by cases e <;> rfl

/-! ### What writes the log appends to it -/

theorem State.log_withPast (x : LogEvent) : (s.withPast past).log x = (s.log x).withPast past := by
  simp only [State.log, State.withPast, List.append_assoc]

theorem State.drive_withPast (p j : Index) (l : PinLevel) :
    (s.withPast past).drive p j l = (s.drive p j l).withPast past :=
  State.log_withPast (s.setPin p j { s.pinAt p j with outLevel := some l }) ..

theorem State.invoke_withPast (src : CallbackSource) (hd : HandlerId) (l : Level) :
    (s.withPast past).invoke src hd l = (s.invoke src hd l).withPast past :=
  State.log_withPast (s.enter (.code src.kind l none)) ..

theorem State.complete_withPast (o : LogOp) (st : Status) (v : Word) :
    (s.withPast past).complete o st v = (s.complete o st v).withPast past := by
  simp only [State.complete, State.withPast, List.append_assoc]

/-- R272: completion. -/
theorem finish_withPast (o : Opcode) (st : Status) (v : Word) :
    finish o st v (s.withPast past) = afterPast past (finish o st v s) :=
  congrArg Host.Outcome.next (s.complete_withPast past _ st v)

theorem fail_withPast (o : Opcode) (st : Status) :
    fail o st (s.withPast past) = afterPast past (fail o st s) := finish_withPast ..

/-- A check that does not read the log. -/
theorem afterPast_ite {c : Prop} [Decidable c] (m m' : Result) :
    afterPast past (if c then m else m') = if c then afterPast past m else afterPast past m' := apply_ite ..

theorem State.withPast_ite {c : Prop} [Decidable c] (u v : State) :
    (if c then u else v).withPast past = if c then u.withPast past else v.withPast past :=
  apply_ite (fun w : State => w.withPast past) ..

/-! ### The steps -/

/-- R47: no command reads the log. -/
theorem exec_withPast (i : Instr) : exec i (s.withPast past) = afterPast past (exec i s) := by
  cases i with
  | nop => exact finish_withPast ..
  | getfreq =>
    simp only [exec, execGetfreq, State.withPast_freqSel]
    cases s.freqSel
    · exact fail_withPast ..
    · exact finish_withPast ..
  | getrate unit =>
    simp only [exec, execGetrate, State.withPast_freqSel]
    cases s.freqSel
    · exact fail_withPast ..
    · exact finish_withPast ..
  | tcfg =>
    simp only [exec, execTcfg, State.withPast_freqSel]
    cases s.freqSel
    all_goals
      simp only [afterPast_ite, ← finish_withPast, ← fail_withPast]
      rfl
  | pcfg =>
    simp only [exec, execPcfg, State.withPast_freqSel]
    cases s.freqSel
    all_goals
      simp only [afterPast_ite, ← finish_withPast, ← fail_withPast]
      rfl
  | tstart ch =>
    simp only [exec, execTstart, State.zeroMillis_ite, afterPast_ite, ← finish_withPast, ← fail_withPast]
    rfl
  | pstart ch =>
    simp only [exec, execPstart, afterPast_ite, ← finish_withPast, ← fail_withPast, ← State.drive_withPast]
    rfl
  | millis => exact finish_withPast ..
  | wait d => rfl
  | rderr => exact finish_withPast { s with lastError := .ok } ..
  | setfreq | tstop | tsetiv | tmiss | pduty | pstop | pmiss | bind | spur =>
    simp only [exec, execSetfreq, execTstop, execTsetiv, execTmiss, execPduty, execPstop, execPmiss, execBind, execSpur,
      afterPast_ite, ← finish_withPast, ← fail_withPast]
    rfl

/-- R180: the timer service reads its channel and the millisecond clock. -/
theorem timerService_withPast (c : Index) :
    timerService c (s.withPast past) = (timerService c s).withPast past := by
  by_cases hc : c = 0
  all_goals
    simp only [timerService, hc, if_true, if_false, State.withPast_ite, ← State.invoke_withPast]
    rfl

theorem pwmServiceA_withPast (c : Index) :
    pwmServiceA c (s.withPast past) = (pwmServiceA c s).withPast past := by
  simp only [pwmServiceA, ← State.drive_withPast]
  rfl

theorem pwmServiceB_withPast (c : Index) :
    pwmServiceB c (s.withPast past) = (pwmServiceB c s).withPast past := by
  simp only [pwmServiceB, State.withPast_ite, ← State.drive_withPast]
  rfl

theorem service_withPast (src : Source) : service src (s.withPast past) = (service src s).withPast past := by
  cases src with
  | tmr c => exact timerService_withPast ..
  | pwmA c => exact pwmServiceA_withPast ..
  | pwmB c => exact pwmServiceB_withPast ..
  | pcn p => rfl

/-- R255: the walk reads the pins and its port. -/
theorem dispatchPort_withPast (p : Index) (l : Level) (k : Nat) (rest : List Context) :
    dispatchPort p l k rest (s.withPast past) = (dispatchPort p l k rest s).withPast past := by
  simp only [dispatchPort, State.withPast_nextFlagged]
  cases s.nextFlagged p k with
  | none => rfl
  | some j =>
    simp only [State.withPast_ite, ← State.invoke_withPast]
    rfl

theorem dispatchStep_withPast : dispatchStep (s.withPast past) = (dispatchStep s).withPast past := by
  simp only [dispatchStep, State.withPast_ctx]
  split
  · exact dispatchPort_withPast ..
  · rfl

theorem returnFromCallback_withPast :
    (s.withPast past).returnFromCallback = s.returnFromCallback.withPast past := by
  simp only [State.returnFromCallback, State.withPast_ctx]
  split
  · rfl
  · rfl
  · rfl

theorem spin_withPast (d : Word) : spin d (s.withPast past) = (spin d s).withPast past := by
  simp only [spin, State.withPast_ite, ← State.complete_withPast]
  rfl

theorem pinEdge_withPast (p j : Index) (dir : EdgeDir) :
    pinEdge p j dir (s.withPast past) = (pinEdge p j dir s).withPast past := by
  simp only [pinEdge, State.withPast_ite]
  rfl

theorem issue_withPast (c : Command) : issue c (s.withPast past) = afterPast past (issue c s) := by
  rcases issue_cases c s with ⟨i, hi, h⟩ | ⟨hnone, h⟩
  · simp only [issue, hi, exec_withPast]
  · simp only [issue_of_no_command hnone, afterPast, State.withPast, List.append_assoc]

/-- R47: no effect reads the log. -/
theorem perform_withPast (e : Event) : perform e (s.withPast past) = afterPast past (perform e s) := by
  cases e with
  | issue w0 w1 w2 => exact issue_withPast ..
  | tick => rfl
  | take src => exact congrArg Host.Outcome.next (service_withPast ..)
  | dispatchStep => exact congrArg Host.Outcome.next (dispatchStep_withPast ..)
  | ret => exact congrArg Host.Outcome.next (returnFromCallback_withPast ..)
  | spin => exact congrArg Host.Outcome.next (spin_withPast ..)
  | pinEdge p j dir => exact congrArg Host.Outcome.next (pinEdge_withPast ..)
  | spuriousFlag p j => rfl

theorem nextChoice_withPast :
    (s.withPast past).nextChoice = (s.nextChoice.1, s.nextChoice.2.withPast past) := by
  simp only [State.nextChoice, State.withPast_inbox]
  split
  · rfl
  · rfl

theorem runEvent_withPast (e : Event) : runEvent e (s.withPast past) = afterPast past (runEvent e s) := by
  simp only [runEvent, State.withPast_enabled, perform_withPast, afterPast_ite]
  rfl

/-- R47: no step reads the log. -/
theorem step_withPast : step (s.withPast past) = afterPast past (step s) := by
  simp only [step, advance, State.withPast_cfg, State.withPast_fault, afterPast_ite]
  cases s.fault with
  | some r => rfl
  | none =>
    simp only [nextChoice_withPast, runEvent_withPast]
    rfl

end

/-- Settles O35: the step is that from the empty log, with the entries of either log before what it logs. -/
theorem eventLogOnlyGrowsAndIsNeverRead : Obligations.EventLogOnlyGrowsAndIsNeverRead := by
  intro s t log h
  have from_empty : ∀ past, step { s with events := past } = afterPast past (step { s with events := [] }) := by
    intro past
    have hpast : { s with events := past } = State.withPast { s with events := [] } past := by
      simp only [State.withPast, List.append_nil]
    rw [hpast, step_withPast]
  have hs := from_empty s.events
  cases hempty : step { s with events := [] } with
  | next u =>
    have ht : t = u.withPast s.events := by
      rw [hempty] at hs
      exact Host.Outcome.next.inj (h.symm.trans hs)
    refine ⟨u.events, by rw [ht]; rfl, ?_⟩
    rw [from_empty log, hempty, ht]
    rfl
  | fault r => rw [hempty, h] at hs; cases hs
  | refused r => rw [hempty, h] at hs; cases hs

end Sys2Proof.Machine
end

section
/-! Proofs of the statements on the Tick of the timer channels (spec/41_countdown_timer_engine.md section 2): one Tick,
and any number of them with nothing serviced. -/

namespace Sys2Proof.Machine

variable {s t : State} {u : TimerChannel}

/-! ### One Tick (R160, R161) -/

/-- R160: within its period a running channel counts. -/
theorem tickTimer_of_lt (hon : u.enabled = true) (hlt : u.counter + 1 < u.periodTicks) :
    tickTimer u = { u with counter := u.counter + 1 } := by
  rw [tickTimer, if_pos hon, if_neg (Nat.not_le.2 hlt)]

/-- R161: at the end of its period the counter rolls over and the period event is raised. -/
theorem tickTimer_of_raise (hon : u.enabled = true) (hend : u.counter + 1 ≥ u.periodTicks) (hclear : u.IF = false) :
    tickTimer u = { u with counter := 0, IF := true } := by
  have hidle : ¬TimerChannel.IF { u with counter := 0 } = true := Bool.eq_false_iff.1 hclear
  rw [tickTimer, if_pos hon, if_pos hend, periodEvent, if_neg hidle]

/-- R161: a period event that finds the one before it pending is coalesced and counted. -/
theorem tickTimer_of_coalesce (hon : u.enabled = true) (hend : u.counter + 1 ≥ u.periodTicks) (hpending : u.IF = true) :
    tickTimer u = { u with counter := 0, missed := saturatingSucc u.missed } := by
  have hbusy : TimerChannel.IF { u with counter := 0 } = true := hpending
  rw [tickTimer, if_pos hon, if_pos hend, periodEvent, if_pos hbusy, satInc_eq]

/-- Settles O39: a Tick counts the running channels of the configuration, each by the case of its counter and flag. -/
theorem tickCountsEveryRunningTimer : Obligations.TickCountsEveryRunningTimer := by
  intro s hlive
  refine ⟨tick s, stepOn_enabled hlive rfl, tick_frame s, fun c => ⟨fun hstill => ?_, fun hin hon hlt => ?_,
    fun hin hon hend hclear => ?_, fun hin hon hend hpending => ?_⟩⟩
  all_goals rw [State.tmrAt_tick]
  · rcases hstill with hout | hoff
    · rw [if_neg (Nat.not_lt.2 hout)]
    · rw [tickTimer_of_stopped hoff, ite_self]
  · rw [if_pos hin, tickTimer_of_lt hon hlt]
  · rw [if_pos hin, tickTimer_of_raise hon hend hclear]
  · rw [if_pos hin, tickTimer_of_coalesce hon hend hpending]

/-! ### Many Ticks (R162) -/

/-- R162: a channel with no event pending or missed and its counter at 0, after `n` counts with nothing serviced. -/
def TimerChannel.afterTicks (u : TimerChannel) (n : Nat) : TimerChannel :=
  { u with
    counter := n % u.periodTicks
    IF := decide (n / u.periodTicks ≥ 1)
    missed := BitVec.ofNat 32 (min (n / u.periodTicks - 1) (2 ^ 32 - 1)) }

theorem TimerChannel.afterTicks_zero (hcounter : u.counter = 0) (hclear : u.IF = false) (hmissed : u.missed = 0) :
    u.afterTicks 0 = u := by
  cases u
  simp_all [TimerChannel.afterTicks]

/-- R162: the quotient and the remainder of the number of counts tell the number of periods and the counter. -/
theorem TimerChannel.afterTicks_of_lt {k r : Nat} (hr : r < u.periodTicks) :
    u.afterTicks (k * u.periodTicks + r) =
      { u with counter := r, IF := decide (k ≥ 1), missed := BitVec.ofNat 32 (min (k - 1) (2 ^ 32 - 1)) } := by
  have hdiv : (k * u.periodTicks + r) / u.periodTicks = k ∧ (k * u.periodTicks + r) % u.periodTicks = r :=
    (Nat.div_mod_unique (Nat.zero_lt_of_lt hr)).2 ⟨by rw [Nat.mul_comm k, Nat.add_comm], hr⟩
  rw [TimerChannel.afterTicks, hdiv.1, hdiv.2]

/-- R161, R162: one count more, within a period or at the end of one, the first or a later one. -/
theorem tickTimer_afterTicks (hon : u.enabled = true) (hpos : 0 < u.periodTicks) (n : Nat) :
    tickTimer (u.afterTicks n) = u.afterTicks (n + 1) := by
  obtain ⟨k, r, hr, rfl⟩ : ∃ k r, r < u.periodTicks ∧ n = k * u.periodTicks + r :=
    ⟨n / u.periodTicks, n % u.periodTicks, Nat.mod_lt n hpos, (Nat.div_add_mod' n u.periodTicks).symm⟩
  rw [TimerChannel.afterTicks_of_lt hr]
  by_cases hend : r + 1 < u.periodTicks
  · rw [tickTimer_of_lt, Nat.add_assoc, TimerChannel.afterTicks_of_lt hend]
    · exact hon
    · exact hend
  · have hroll : k * u.periodTicks + r + 1 = (k + 1) * u.periodTicks + 0 := by
      rw [Nat.add_mul]
      omega
    rw [hroll, TimerChannel.afterTicks_of_lt hpos]
    have hge : r + 1 ≥ u.periodTicks := Nat.le_of_not_lt hend
    cases k with
    | zero => exact tickTimer_of_raise (u := { u with counter := r, IF := false, missed := 0 }) hon hge rfl
    | succ k =>
      rw [tickTimer_of_coalesce, ← satInc_eq, Nat.add_sub_cancel, satInc_ofNat_min]
      · rfl
      · exact hon
      · exact hge
      · rfl

/-- R162: any number of counts. -/
theorem iterate_tickTimer (hon : u.enabled = true) (hpos : 0 < u.periodTicks) (hstart : u.afterTicks 0 = u) (n : Nat) :
    tickTimer^[n] u = u.afterTicks n := by
  induction n with
  | zero => exact hstart.symm
  | succ n ih => rw [Function.iterate_succ_apply', ih, tickTimer_afterTicks hon hpos]

/-- R160: a run that chooses only Ticks ends successfully, each timer channel counted as often. -/
theorem ticks_succeed (n : Nat) (hlive : s.Live) :
    ∃ t, SucceedsIn n { s with inbox := List.replicate n .tick } t ∧
      ∀ c, c.toNat < s.cfg.nTmr → t.tmrAt c = tickTimer^[n] (s.tmrAt c) := by
  induction n generalizing s with
  | zero => exact ⟨_, ⟨rfl, hlive⟩, fun _ _ => rfl⟩
  | succ n ih =>
    have hfirst : step { s with inbox := List.replicate (n + 1) .tick } =
        .next { tick s with inbox := List.replicate n .tick } :=
      step_of_inbox (s := { s with inbox := List.replicate (n + 1) .tick }) hlive rfl
    obtain ⟨t, ht, hcount⟩ := ih (s := tick s) hlive
    refine ⟨t, succeedsIn_succ.2 ⟨_, hfirst, ht⟩, fun c hc => ?_⟩
    rw [hcount c hc, State.tmrAt_tick, if_pos hc, Function.iterate_succ_apply]

/-- Settles O41: each Tick counts the channel once, and the counts have a closed form. -/
theorem periodEventsComeEveryPeriod : Obligations.PeriodEventsComeEveryPeriod := by
  intro s c k r hlive hin hon hcounter hclear hmissed hr
  obtain ⟨t, ht, hcount⟩ := ticks_succeed (k * (s.tmrAt c).periodTicks + r) hlive
  refine ⟨t, ht, ?_⟩
  rw [hcount c hin, iterate_tickTimer hon (Nat.zero_lt_of_lt hr) (TimerChannel.afterTicks_zero hcounter hclear hmissed),
    TimerChannel.afterTicks_of_lt hr]

end Sys2Proof.Machine
end

section
/-! Proofs of the statements of spec/60_exceptions.md sections 2 and 3: which source may be taken, and what entry does
to the stack. -/

namespace Sys2Proof.Machine

variable {s t : State} {src : Source}

/-! ### Which source may be taken (R310, R312, R313, R314) -/

/-- Settles O45: eligibility is the table's row of the source, and a Take is enabled at the highest eligible level. -/
theorem takeNeedsHighestEligibleSource : Obligations.TakeNeedsHighestEligibleSource := fun s =>
  ⟨fun c => (s.eligible_iff (.tmr c)).trans (and_congr_left' decide_eq_true_iff),
    fun c => (s.eligible_iff (.pwmA c)).trans (and_congr_left' decide_eq_true_iff),
    fun c => (s.eligible_iff (.pwmB c)).trans (and_congr_left' decide_eq_true_iff),
    fun p => (s.eligible_iff (.pcn p)).trans (and_congr_left' decide_eq_true_iff), s.takeable_iff⟩

/-- R313: where some source is eligible, one of the eligible sources has the highest level of them. -/
theorem State.exists_takeable (h : s.eligible src = true) : ∃ top, s.takeable top = true := by
  obtain ⟨top, htop, hmax⟩ := (allSources.toFinset.filter fun r => s.eligible r = true).exists_max_image
    (fun r => (s.sourceLevel r).toNat) ⟨src, by simp [mem_allSources, h]⟩
  refine ⟨top, (s.takeable_iff top).2 ⟨(Finset.mem_filter.1 htop).2, fun r hr => hmax r ?_⟩⟩
  simp [mem_allSources, hr]

/-- Settles O46: of the sources only the level is compared, and finitely many sources have a highest level. -/
theorem equalLevelsMayBeTakenInAnyOrder : Obligations.EqualLevelsMayBeTakenInAnyOrder := by
  refine ⟨fun s a b ha hb heq => (s.takeable_iff b).2 ⟨hb, fun r hr => ?_⟩, fun s a => State.exists_takeable⟩
  rw [heq]
  exact ((s.takeable_iff a).1 ha).2 r hr

/-- R312, R315: a source at or below the current level is masked. -/
theorem State.eligible_eq_false_of_level_le (h : (s.sourceLevel src).toNat ≤ s.currentLevel.toNat) :
    s.eligible src = false := by
  refine Bool.eq_false_iff.2 fun heligible => ?_
  obtain ⟨-, -, -, hlevel⟩ := (s.eligible_iff src).1 heligible
  omega

/-- Settles O47: no level is below 0, so a source at level 0 is at or below the current level. -/
theorem levelZeroIsNeverTaken : Obligations.LevelZeroIsNeverTaken := by
  intro s src hzero
  have hmasked : s.eligible src = false := State.eligible_eq_false_of_level_le (by simp [hzero])
  have hoff : s.enabled (.take src) = false :=
    Bool.eq_false_iff.2 fun htake => Bool.eq_false_iff.1 hmasked ((s.takeable_iff src).1 htake).1
  exact ⟨hoff, fun hlive => disabledChoiceChangesNothing _ s hlive hoff⟩

/-! ### Entry (R315, R318) -/

/-- R312: a Take runs in a state where its source is above the current level. -/
theorem State.currentLevel_lt_of_takeable (h : s.takeable src = true) :
    s.currentLevel.toNat < (s.sourceLevel src).toNat :=
  ((s.eligible_iff src).1 ((s.takeable_iff src).1 h).1).2.2.2

/-- R315, R318: a service leaves the stack alone or puts one entry on top, at the source's level. -/
theorem service_ctx (src : Source) (s : State) :
    (service src s).ctx = s.ctx ∨ ∃ e, (service src s).ctx = e :: s.ctx ∧ e.level = s.sourceLevel src := by
  cases src with
  | tmr c =>
    rcases timerService_callback (s := s) c with ⟨-, hctx, -⟩ | ⟨-, hctx, -⟩
    · exact .inr ⟨_, hctx, rfl⟩
    · exact .inl hctx
  | pwmA c => exact .inl (pwmServiceA_ctx s c)
  | pwmB c => exact .inl (pwmServiceB_ctx s c)
  | pcn p => exact .inr ⟨_, rfl, rfl⟩

/-- R312: a Take runs in a state where its source is pending. -/
theorem pending_of_takeable (h : s.takeable src = true) : s.pending src = true :=
  ((s.eligible_iff src).1 ((s.takeable_iff src).1 h).1).2.1

/-- R312: the step of a Take that is enabled is the source's service. -/
theorem next_of_stepOn_take (hlive : s.Live) (htake : s.takeable src = true) (h : stepOn (.take src) s = .next t) :
    service src s = t := by
  have hen : s.enabled (.take src) = true := htake
  exact Host.Outcome.next.inj ((stepOn_enabled hlive hen).symm.trans h)

/-- Settles O48: the step is the service of the source, and an entry on top sets the current level. -/
theorem interruptEntrySavesOnlyStack : Obligations.InterruptEntrySavesOnlyStack := by
  intro s t src hlive htake hstep
  obtain rfl := next_of_stepOn_take hlive htake hstep
  refine ⟨?_, ?_, ?_⟩
  · rcases service_ctx src s with hsame | ⟨e, hctx, hlevel⟩
    · exact .inl hsame
    · have htop : (service src s).currentLevel = e.level := by rw [State.currentLevel, hctx, levelOf]
      exact .inr ⟨e, hctx, hlevel, hlevel ▸ State.currentLevel_lt_of_takeable htake, htop, fun r hr =>
        State.eligible_eq_false_of_level_le (htop ▸ hr)⟩
  · rintro p rfl
    rfl
  · rintro c (rfl | rfl)
    · exact pwmServiceA_ctx s c
    · exact pwmServiceB_ctx s c

end Sys2Proof.Machine
end

section
/-! Proofs of the statements on the invariant of the state: the context stack (spec/10_state.md R46,
spec/60_exceptions.md R321), the timer channels (R35), the selected frequency (R33, R151), and the whole of it at reset
and at every step. -/

namespace Sys2Proof

/-- R7: timer channel 0 exists. -/
theorem Config.wellFormed_nTmr {c : Config} (h : c.wellFormed = true) : 1 ≤ c.nTmr := by
  obtain ⟨-, htmr, -⟩ := c.wellFormed_iff.1 h
  exact (of_decide_eq_true htmr).1

/-- R7: a port has at most 16 pins. -/
theorem Config.wellFormed_nPin {c : Config} (h : c.wellFormed = true) : c.nPin ≤ 16 := by
  obtain ⟨-, -, -, -, hpin, -⟩ := c.wellFormed_iff.1 h
  exact (of_decide_eq_true hpin).2

end Sys2Proof

namespace Sys2Proof.Machine

variable {s t : State} {e : Event} {i : Instr} {cfg : Config}

/-! ### The context stack (R46, R321) -/

/-- R321: how many entries a stack with this top may have: a dispatch is the first entry of its level. -/
def Context.depthBound : Context → Nat
  | .code _ l _ => 2 * l.toNat + 1
  | .dispatch _ l _ => 2 * l.toNat

theorem Context.depthBound_le (c : Context) : c.depthBound ≤ 2 * c.level.toNat + 1 := by
  cases c with
  | code => exact Nat.le_refl _
  | dispatch => exact Nat.le_succ _

namespace StackSound

variable {c : Context} {rest stack : List Context} {l l' : Level} {w : Option Word} {p p' j : Index} {k : Nat}

/-- R46: a timer callback stands above a lower level. -/
theorem timerCB_iff (c : Index) :
    StackSound cfg (.code (.timerCB c) l w :: rest) ↔ (levelOf rest).toNat < l.toNat ∧ StackSound cfg rest := by
  rw [StackSound]

/-- R46: a dispatch stands above a lower level, at the level of its port. -/
theorem dispatch_iff :
    StackSound cfg (.dispatch p l k :: rest) ↔
      (levelOf rest).toNat < l.toNat ∧ l = bankGet cfg.portPrio p ∧ p.toNat < cfg.nPort ∧ k ≤ cfg.nPin ∧
        StackSound cfg rest := by
  rw [StackSound]

/-- R46: a pin callback stands on the dispatch that invoked it. -/
theorem pinCB_iff :
    StackSound cfg (.code (.pinCB p j) l w :: .dispatch p' l' k :: rest) ↔
      p = p' ∧ l = l' ∧ k = j.toNat ∧ j.toNat < cfg.nPin ∧ StackSound cfg (.dispatch p' l' k :: rest) := by
  rw [StackSound]

/-- R46: a pin callback stands on a dispatch. -/
theorem exists_dispatch (h : StackSound cfg (.code (.pinCB p j) l w :: rest)) :
    ∃ p' l' k below, rest = .dispatch p' l' k :: below := by
  rcases rest with - | ⟨⟨_⟩ | ⟨p', l', k⟩, below⟩
  · exact absurd h (by simp [StackSound])
  · exact absurd h (by simp [StackSound])
  · exact ⟨p', l', k, below, rfl⟩

/-- R190, R192: whether the top context spins is no part of the shape. -/
theorem setTopWait_iff (w : Option Word) : StackSound cfg (setTopWait w stack) ↔ StackSound cfg stack := by
  unfold setTopWait
  split
  next kind l w' rest =>
    cases kind with
    | fg => cases rest <;> rw [StackSound, StackSound]
    | timerCB c => rw [timerCB_iff, timerCB_iff]
    | pinCB p j =>
      rcases rest with - | ⟨⟨_⟩ | ⟨p', l', k⟩, below⟩
      · simp [StackSound]
      · simp [StackSound]
      · rw [pinCB_iff, pinCB_iff]
  next => rfl

/-- R321: no entry's level is below that of the entry beneath it. -/
theorem levelOf_le (h : StackSound cfg (c :: rest)) : (levelOf rest).toNat ≤ c.level.toNat := by
  match c with
  | .code .fg l w =>
    cases rest with
    | nil => exact Nat.zero_le _
    | cons c' below => exact absurd h (by simp [StackSound])
  | .code (.timerCB ch) l w => exact Nat.le_of_lt ((timerCB_iff ch).1 h).1
  | .code (.pinCB p j) l w =>
    obtain ⟨p', l', k, below, rfl⟩ := exists_dispatch h
    obtain ⟨-, rfl, -⟩ := pinCB_iff.1 h
    exact Nat.le_refl _
  | .dispatch p l k => exact Nat.le_of_lt (dispatch_iff.1 h).1

/-- R321: each level holds at most a dispatch and the callback of a pin above it, or the callback of a timer; level 0
holds the foreground. -/
theorem length_le_depthBound (h : StackSound cfg (c :: rest)) : (c :: rest).length ≤ c.depthBound := by
  induction rest generalizing c with
  | nil =>
    match c with
    | .code _ l w => exact Nat.le_add_left ..
    | .dispatch p l k =>
      have hlevel := (dispatch_iff.1 h).1
      simp only [List.length_singleton, Context.depthBound]
      omega
  | cons c' below ih =>
    match c with
    | .code .fg l w => exact absurd h (by simp [StackSound])
    | .code (.timerCB ch) l w =>
      obtain ⟨hlevel, hrest⟩ := (timerCB_iff ch).1 h
      have hlen := (ih hrest).trans c'.depthBound_le
      simp only [List.length_cons, Context.depthBound, levelOf] at hlen hlevel ⊢
      omega
    | .code (.pinCB p j) l w =>
      obtain ⟨p', l', k, below', hd⟩ := exists_dispatch h
      cases hd
      obtain ⟨-, rfl, -, -, hrest⟩ := pinCB_iff.1 h
      exact Nat.succ_le_succ (ih hrest)
    | .dispatch p l k =>
      obtain ⟨hlevel, -, -, -, hrest⟩ := dispatch_iff.1 h
      have hlen := (ih hrest).trans c'.depthBound_le
      simp only [List.length_cons, Context.depthBound, levelOf] at hlen hlevel ⊢
      omega

/-- R321: the depth of the stack is bounded by the level of its top. -/
theorem length_le (h : StackSound cfg (c :: rest)) : (c :: rest).length ≤ 2 * c.level.toNat + 1 :=
  (length_le_depthBound h).trans c.depthBound_le

end StackSound

/-- R312, R318: every service keeps the shape of the stack. -/
theorem service_keeps_stackSound {src : Source} (hs : StackSound s.cfg s.ctx) (htake : s.takeable src = true) :
    StackSound s.cfg (service src s).ctx := by
  have hlevel := State.currentLevel_lt_of_takeable htake
  cases src with
  | tmr c =>
    rcases timerService_callback (s := s) c with ⟨-, hctx, -⟩ | ⟨-, hctx, -⟩
    · rw [service, hctx]
      exact (StackSound.timerCB_iff c).2 ⟨hlevel, hs⟩
    · rwa [service, hctx]
  | pwmA c => exact hs
  | pwmB c => rwa [service, pwmServiceB_ctx]
  | pcn p =>
    obtain ⟨hexists, -⟩ := (s.eligible_iff _).1 ((s.takeable_iff _).1 htake).1
    exact StackSound.dispatch_iff.2 ⟨hlevel, rfl, of_decide_eq_true hexists, Nat.zero_le _, hs⟩

/-- R255: every step of a dispatch keeps the shape of the stack. -/
theorem dispatchStep_keeps_stackSound (hs : StackSound s.cfg s.ctx) : StackSound s.cfg (dispatchStep s).ctx := by
  unfold dispatchStep
  split
  next p l k rest hctx =>
    obtain ⟨hlevel, hprio, hport, -, hrest⟩ := StackSound.dispatch_iff.1 (hctx ▸ hs)
    unfold dispatchPort
    split
    next => exact hrest
    next j hnext =>
      obtain ⟨-, hj, -⟩ := (s.nextFlagged_some p k j).1 hnext
      split
      · exact StackSound.pinCB_iff.2 ⟨rfl, rfl, rfl, hj,
          StackSound.dispatch_iff.2 ⟨hlevel, hprio, hport, Nat.le_of_lt hj, hrest⟩⟩
      · exact StackSound.dispatch_iff.2 ⟨hlevel, hprio, hport, hj, hrest⟩
  next => exact hs

/-- R320: every Return keeps the shape of the stack. -/
theorem returnFromCallback_keeps_stackSound (hs : StackSound s.cfg s.ctx) :
    StackSound s.cfg s.returnFromCallback.ctx := by
  unfold State.returnFromCallback
  split
  next c l rest hctx => exact ((StackSound.timerCB_iff c).1 (hctx ▸ hs)).2
  next p j l rest hctx =>
    rw [hctx] at hs
    obtain ⟨p', l', k, below, rfl⟩ := StackSound.exists_dispatch hs
    obtain ⟨-, -, -, hj, hd⟩ := StackSound.pinCB_iff.1 hs
    obtain ⟨hlevel, hprio, hport, -, hbelow⟩ := StackSound.dispatch_iff.1 hd
    exact StackSound.dispatch_iff.2 ⟨hlevel, hprio, hport, hj, hbelow⟩
  next => exact hs

/-- R192: a Spin changes at most whether the top context spins. -/
theorem spin_keeps_stackSound (d : Word) (hs : StackSound s.cfg s.ctx) : StackSound s.cfg (spin d s).ctx := by
  unfold spin
  split
  · exact (StackSound.setTopWait_iff none).2 hs
  · exact hs

/-- R46, R321: every enabled step keeps the shape of the stack. -/
theorem perform_keeps_stackSound (hen : s.enabled e = true) (hs : StackSound s.cfg s.ctx) (h : perform e s = .next t) :
    StackSound t.cfg t.ctx := by
  rw [perform_cfg h]
  cases e with
  | issue w0 w1 w2 =>
    rcases issue_cases ⟨w0, w1, w2⟩ s with ⟨i, -, hi⟩ | ⟨-, hi⟩
    · rcases exec_ctx (hi.symm.trans h) with hctx | ⟨d, -, hctx⟩
      · rwa [hctx]
      · rw [hctx]
        exact (StackSound.setTopWait_iff _).2 hs
    · obtain rfl := Host.Outcome.next.inj (hi.symm.trans h)
      exact hs
  | tick => cases h; exact hs
  | take src => cases h; exact service_keeps_stackSound hs hen
  | dispatchStep => cases h; exact dispatchStep_keeps_stackSound hs
  | ret => cases h; exact returnFromCallback_keeps_stackSound hs
  | spin => cases h; exact spin_keeps_stackSound _ hs
  | pinEdge p j dir => cases h; rwa [pinEdge_ctx]
  | spuriousFlag p j => cases h; exact hs

/-- Settles O59: pushes are at a higher level or at a dispatch's own, so the levels bound the depth, and a level is at
most 7. -/
theorem contextStackStaysSound : Obligations.ContextStackStaysSound := by
  refine ⟨fun s t hs h => ?_, fun cfg c stack h => ⟨h.levelOf_le, h.length_le⟩, fun cfg stack h => ?_⟩
  · rcases step_cases h with ⟨-, rfl⟩ | ⟨hen, hp⟩
    · simpa using hs
    · exact perform_keeps_stackSound (by rwa [enabled_nextChoice]) (by simpa using hs) hp
  · cases stack with
    | nil => exact Nat.zero_le _
    | cons c rest =>
      have := h.length_le
      have := c.level.isLt
      omega

/-! ### The timer channels (R34, R35) -/

namespace TimerChannel.Sound

variable {u : TimerChannel}

/-- R340: a timer channel after reset. -/
theorem of_reset (cfg : Config) : TimerChannel.reset.Sound cfg := by
  simp [TimerChannel.Sound, TimerChannel.reset]

/-- R160, R161: a count stays within the period, and only a running channel counts. -/
theorem tick (h : u.Sound cfg) : (tickTimer u).Sound cfg := by
  cases hon : u.enabled with
  | false => rwa [tickTimer_of_stopped hon]
  | true =>
    obtain ⟨-, -, hmax, hrun, hstop, hwidth⟩ := h
    have hpos := hrun hon
    have counted : ∀ n b m, n < u.periodTicks →
        TimerChannel.Sound cfg { u with counter := n, IF := b, missed := m } := fun n b m hn =>
      ⟨fun _ => hn, fun hnone => absurd hnone (Nat.ne_of_gt hpos), hmax, hrun, fun hoff => absurd hoff (by simp [hon]),
        hwidth⟩
    by_cases hlt : u.counter + 1 < u.periodTicks
    · rw [tickTimer_of_lt hon hlt]
      exact counted _ _ _ hlt
    · cases hIF : u.IF with
      | false =>
        rw [tickTimer_of_raise hon (Nat.le_of_not_lt hlt) hIF]
        exact counted _ _ _ hpos
      | true =>
        rw [tickTimer_of_coalesce hon (Nat.le_of_not_lt hlt) hIF]
        exact counted _ _ _ hpos

/-- R180: a service clears the flag. -/
theorem served (h : u.Sound cfg) : u.served.Sound cfg := by
  obtain ⟨hcnt, hzero, hmax, hrun, -, hwidth⟩ := h
  exact ⟨hcnt, hzero, hmax, hrun, fun _ => rfl, hwidth⟩

/-- R150: TCFG. -/
theorem tcfg (h : u.Sound cfg) {n : Nat} (hpos : 1 ≤ n) (hn : n ≤ maxCount cfg) {ps : Word}
    (hps : ps ≠ 0) (hd : HandlerId) (prio : Level) :
    TimerChannel.Sound cfg
      { u with periodTicks := n, softCountMax := ps, callback := hd, priority := prio, counter := 0 } := by
  obtain ⟨-, -, -, -, hstop, -⟩ := h
  exact ⟨fun _ => hpos, fun _ => rfl, fun _ => hps, fun _ => hpos, hstop, hn⟩

/-- R152: TSETIV. -/
theorem tsetiv (h : u.Sound cfg) {ps : Word} (hps : ps ≠ 0) : TimerChannel.Sound cfg { u with softCountMax := ps } := by
  obtain ⟨hcnt, hzero, -, hrun, hstop, hwidth⟩ := h
  exact ⟨hcnt, hzero, fun _ => hps, hrun, hstop, hwidth⟩

/-- R153: TSTART of a configured channel. -/
theorem tstart (h : u.Sound cfg) (hper : u.periodTicks ≠ 0) :
    TimerChannel.Sound cfg { u with counter := 0, softCounter := 0, missed := 0, IF := false, enabled := true } := by
  obtain ⟨-, -, hmax, -, -, hwidth⟩ := h
  exact ⟨id, fun _ => rfl, hmax, fun _ => Nat.pos_of_ne_zero hper, fun _ => rfl, hwidth⟩

/-- R155: TSTOP. -/
theorem tstop (h : u.Sound cfg) : TimerChannel.Sound cfg { u with enabled := false, IF := false } := by
  obtain ⟨hcnt, hzero, hmax, -, -, hwidth⟩ := h
  exact ⟨hcnt, hzero, hmax, nofun, fun _ => rfl, hwidth⟩

end TimerChannel.Sound

/-- R35: every command keeps a timer channel's invariants. -/
theorem exec_keeps_timer_sound {c : Index} (hs : (s.tmrAt c).Sound s.cfg) (h : exec i s = .next t) :
    (t.tmrAt c).Sound s.cfg := by
  rcases exec_tmrAt (c := c) h with hc | ⟨-, -, hper, hc⟩ |
    ⟨prio, _, hd, _, _, _, -, -, -, -, hpos, hmax, hps, -, hc⟩ | ⟨-, hc⟩ | ⟨_, -, -, hps, hc⟩
  all_goals rw [hc]
  · exact hs
  · exact hs.tstart hper
  · exact hs.tcfg hpos hmax hps hd prio
  · exact hs.tstop
  · exact hs.tsetiv hps

/-- R35: every effect keeps the invariants of every timer channel. -/
theorem perform_keeps_timersSound (hs : s.TimersSound) (h : perform e s = .next t) : t.TimersSound := by
  intro c hc
  rw [perform_cfg h] at hc ⊢
  rcases perform_tmrAt h c with ⟨_, _, _, _, -, -, hx⟩ | hw | ⟨-, hw⟩ | ⟨-, hw⟩
  · exact exec_keeps_timer_sound (hs c hc) hx
  all_goals rw [hw]
  · exact hs c hc
  · exact (hs c hc).tick
  · exact (hs c hc).served

/-! ### The selected frequency (R33, R132, R151) -/

/-- R150, R151: only a TCFG changes a channel's period, and on channel 0 its postscale; it does so at the selected
frequency, and makes channel 0 a 1 ms timer with postscale 1. -/
theorem perform_timer_config (h : perform e s = .next t) (c : Index) :
    ((t.tmrAt c).periodTicks = (s.tmrAt c).periodTicks ∧
      (c = 0 → (t.tmrAt c).softCountMax = (s.tmrAt c).softCountMax)) ∨
    ∃ f, s.freqSel = some f ∧ t.freqSel = some f ∧
      (c = 0 → (t.tmrAt c).periodTicks = (rate s.cfg f .ms).toNat ∧ (t.tmrAt c).softCountMax = 1) := by
  rcases perform_tmrAt h c with ⟨_, _, _, _, -, -, hx⟩ | hw | ⟨-, hw⟩ | ⟨-, hw⟩
  · rcases exec_tmrAt (c := c) hx with hc | ⟨-, -, -, hc⟩ |
      ⟨_, unit, _, iv, ps, f, -, hf, hf', -, -, -, -, hclock, hc⟩ | ⟨-, hc⟩ | ⟨_, -, hne, -, hc⟩
    · exact .inl (by simp [hc])
    · exact .inl (by simp [hc])
    · refine .inr ⟨f, hf, hf', fun h0 => ?_⟩
      obtain ⟨rfl, rfl, rfl⟩ := hclock h0
      rw [hc]
      exact ⟨Nat.one_mul _, rfl⟩
    · exact .inl (by simp [hc])
    · exact .inl ⟨by rw [hc], fun h0 => absurd h0 hne⟩
  · exact .inl (by simp [hw])
  · obtain ⟨_, _, _, heq, -⟩ := tickTimer_eq (s.tmrAt c)
    exact .inl (by simp [hw, heq])
  · exact .inl (by simp [hw, TimerChannel.served])

/-- R200: only a PCFG, at a selected frequency, changes a PWM channel's mask. -/
theorem perform_pinMask (h : perform e s = .next t) (c : Index) :
    (t.pwmAt c).pinMask = (s.pwmAt c).pinMask ∨ t.freqSel ≠ none := by
  rcases perform_pwmAt h c with ⟨_, _, _, _, -, -, hx⟩ | hw | ⟨-, hw⟩ | ⟨-, hw⟩ | ⟨-, hw⟩
  · rcases exec_pwmAt (c := c) hx with hc | ⟨_, _, _, _, f, _, -, -, hf, -, -, -, -, -, hsame, -⟩ | ⟨_, -, hc⟩ |
      ⟨-, -, -, hc⟩ | ⟨-, hc⟩
    · exact .inl (by rw [hc])
    · exact .inr (by simp [hsame, hf])
    · exact .inl (by rw [hc])
    · exact .inl (by rw [hc])
    · exact .inl (by rw [hc])
  · exact .inl (by rw [hw])
  · obtain ⟨_, _, _, _, heq, -⟩ := tickPwm_eq (s.pwmAt c)
    exact .inl (by rw [hw, heq])
  · exact .inl (by rw [hw])
  · exact .inl (by rw [hw])

/-- R132: only a SETFREQ changes the selected frequency, to an entry of the table, and only while nothing is
configured. -/
theorem perform_freqSel (h : perform e s = .next t) :
    t.freqSel = s.freqSel ∨
    ∃ sel, t.freqSel = some sel ∧ sel.toNat < s.cfg.nFreq ∧ ¬s.Configured ∧ t.tmr = s.tmr := by
  rcases perform_cases h with ⟨_, _, _, _, -, -, hx⟩ | ⟨_, _, _, -, -, rfl⟩ | ⟨-, rfl⟩ | ⟨_, -, rfl⟩ | ⟨_, -, rfl⟩ |
    ⟨_, -, rfl⟩ | ⟨_, -, rfl⟩ | ⟨-, rfl⟩ | ⟨-, rfl⟩ | ⟨-, rfl⟩ | ⟨_, _, _, -, rfl⟩ | ⟨_, _, -, rfl⟩
  · rcases exec_freqSel hx with hsame | ⟨sel, -, hin, hnone, rfl⟩
    · exact .inl hsame
    · exact .inr ⟨sel, rfl, hin, hnone, rfl⟩
  all_goals exact .inl (by simp)

/-- R33, R132, R151: every effect keeps the frequency's invariants. -/
theorem perform_keeps_frequencySound (wf : s.cfg.wellFormed = true) (hs : s.FrequencySound)
    (h : perform e s = .next t) : t.FrequencySound := by
  obtain ⟨htable, hunset, hclock⟩ := hs
  rw [State.FrequencySound, perform_cfg h]
  rcases perform_freqSel h with hsame | ⟨sel, hsel, hin, hnone, htmr⟩
  · refine ⟨fun f hf => htable f (hsame ▸ hf), fun hf => ⟨fun c hc => ?_, fun c hc => ?_⟩, fun f hf hper => ?_⟩
    · rcases perform_timer_config h c with ⟨hp, -⟩ | ⟨f, -, hf', -⟩
      · rw [hp]
        exact (hunset (hsame ▸ hf)).1 c hc
      · cases hf.symm.trans hf'
    · rw [(perform_pinMask h c).resolve_right (not_not.2 hf)]
      exact (hunset (hsame ▸ hf)).2 c hc
    · rcases perform_timer_config h 0 with ⟨hp, hmax⟩ | ⟨f', -, hf', hset⟩
      · rw [hp] at hper ⊢
        rw [hmax rfl]
        exact hclock f (hsame ▸ hf) hper
      · cases hf.symm.trans hf'
        exact hset rfl
  · have hzero : t.tmrAt 0 = s.tmrAt 0 := congrArg (bankGet · 0) htmr
    refine ⟨fun f hf => ?_, fun hf => ?_, fun f hf hper => ?_⟩
    · cases hsel.symm.trans hf
      exact hin
    · cases hsel.symm.trans hf
    · rw [hzero] at hper
      exact absurd (.inl ⟨0, Config.wellFormed_nTmr wf, hper⟩) hnone

/-! ### The whole invariant -/

/-- Reading a choice keeps the invariant: it reads neither the inbox nor the count of choices read. -/
theorem State.Inv.nextChoice (h : s.Inv) : s.nextChoice.2.Inv where
  config := by simpa using h.config
  timers := by simpa [State.TimersSound] using h.timers
  pwms := by simpa [State.PwmsConsistent] using h.pwms
  pins := by simpa [State.PinsExclusive] using h.pins
  stack := by simpa using h.stack
  frequency := by simpa [State.FrequencySound] using h.frequency

/-- Every enabled step keeps the invariant, each part by its own lemma. -/
theorem State.Inv.perform (hs : s.Inv) (hen : s.enabled e = true) (h : perform e s = .next t) : t.Inv where
  config := by rw [perform_cfg h, hs.config]
  timers := perform_keeps_timersSound hs.timers h
  pwms := perform_keeps_pwmsConsistent hs.config hs.pwms h
  pins := perform_keeps_pinsExclusive hs.pins h
  stack := perform_keeps_stackSound hen hs.stack h
  frequency := perform_keeps_frequencySound hs.config hs.frequency h

/-- Settles O56: a step passes its choice over or performs it where it is enabled. -/
theorem everyStepKeepsInvariant : Obligations.EveryStepKeepsInvariant := by
  intro s t hs h
  rcases step_cases h with ⟨-, rfl⟩ | ⟨hen, hp⟩
  · exact hs.nextChoice
  · exact hs.nextChoice.perform (by rwa [enabled_nextChoice]) hp

/-- Settles O55: after reset every channel is unconfigured, no frequency is selected, and the foreground is the one
context. -/
theorem invariantHoldsAtReset : Obligations.InvariantHoldsAtReset := by
  obtain ⟨pwms, -, -⟩ := pwmChannelsStaySound
  obtain ⟨pins, -, -⟩ := pinClaimsStayExclusive
  refine ⟨fun cfg wf => ?_, rfl, by decide⟩
  exact {
    config := wf
    timers := fun c _ => by
      rw [State.resetWith_tmrAt]
      exact .of_reset cfg
    pwms := pwms cfg wf
    pins := pins cfg wf
    stack := by
      show StackSound cfg [.code .fg 0 none]
      rw [StackSound]
    frequency := ⟨nofun, fun _ => ⟨fun c _ => by rw [State.resetWith_tmrAt]; rfl, fun c _ => by
      rw [State.resetWith_pwmAt]; rfl⟩, nofun⟩ }

end Sys2Proof.Machine
end

section
/-! Proof of the statement of spec/44_pin_interrupt_dispatcher.md R256: the five steps from a matching edge of a bound
pin to the end of its dispatch, each with the state it leaves. -/

namespace Sys2Proof.Machine

variable {s t : State} {p j : Index} {dir : EdgeDir} {l : Level} {k : Nat}

/-- R9, R304: whether the machine can take steps depends on its parameters and its fault. -/
theorem State.Live.congr (h : s.Live) (hcfg : t.cfg = s.cfg) (hfault : t.fault = s.fault) : t.Live :=
  ⟨hcfg ▸ h.1, hfault ▸ h.2⟩

/-- R304: a run that performs the first choice of its inbox and goes on to a successful end. -/
theorem succeedsIn_of_perform {e : Event} {rest : List Event} {n : Nat} {u v : State} (hlive : s.Live)
    (hen : s.enabled e = true) (hp : perform e { s with inbox := rest } = .next { u with inbox := rest })
    (h : SucceedsIn n { u with inbox := rest } v) : SucceedsIn (n + 1) { s with inbox := e :: rest } v :=
  ⟨(run_inbox_cons hlive hen hp).trans h.1, h.2⟩

/-- R255: DispatchStep is the walk of the dispatch on top. -/
theorem dispatchStep_of_ctx {below : List Context} (h : s.ctx = .dispatch p l k :: below) :
    dispatchStep s = dispatchPort p l k below s := by
  rw [dispatchStep, h]

/-- R255: the search for a flagged pin reads the pins and N_PIN. -/
theorem State.nextFlagged_congr (hcfg : t.cfg = s.cfg) (hpin : t.pin = s.pin) :
    t.nextFlagged p k = s.nextFlagged p k := by
  simp only [State.nextFlagged, State.pinAt, hcfg, hpin]

theorem State.pinAt_congr (h : t.pin = s.pin) (p j : Index) : t.pinAt p j = s.pinAt p j := by
  rw [State.pinAt, State.pinAt, h]

theorem State.portAt_congr (h : t.port = s.port) (p : Index) : t.portAt p = s.portAt p := by
  rw [State.portAt, State.portAt, h]

/-- R250: the flagged pin. -/
theorem flagPin_pinAt : (s.flagPin p j).pinAt p j = { s.pinAt p j with changeFlag := true } :=
  State.pinAt_setPin_same s p j _

/-- R250: its port. -/
theorem flagPin_portAt : (s.flagPin p j).portAt p = { s.portAt p with flag := true } :=
  State.portAt_setPort_same (s.setPin p j _) p _

/-- R250: setting a pin's flags makes no source eligible but its port's. -/
theorem flagPin_eligible {r : Source} (h : r ≠ .pcn p) : (s.flagPin p j).eligible r = s.eligible r := by
  cases r with
  | tmr | pwmA | pwmB => rfl
  | pcn p' =>
    have hport : (s.flagPin p j).portAt p' = s.portAt p' :=
      State.portAt_setPort_other _ p p' _ fun heq => h (congrArg Source.pcn heq)
    simp only [State.eligible, State.pending, State.unmasked, hport]
    rfl

/-- R250, R312: where nothing else is eligible, setting a pin's flags makes its port's source the one that may be
taken. -/
theorem flagPin_takeable (hport : p.toNat < s.cfg.nPort) (hIE : (s.portAt p).IE = true)
    (hlevel : s.currentLevel.toNat < (bankGet s.cfg.portPrio p).toNat) (hquiet : ∀ src, s.eligible src = false) :
    (s.flagPin p j).takeable (.pcn p) = true := by
  refine (State.takeable_iff _ _).2 ⟨(State.eligible_iff _ _).2 ⟨decide_eq_true hport, ?_, ?_, hlevel⟩, fun r hr => ?_⟩
  · exact congrArg Port.flag flagPin_portAt
  · exact (congrArg Port.IE flagPin_portAt).trans hIE
  · by_cases hr' : r = .pcn p
    · rw [hr']
    · rw [flagPin_eligible hr', hquiet] at hr
      cases hr

/-- R250, R255: where no flag was set before, a dispatch finds the pin whose flags were set. -/
theorem flagPin_nextFlagged (hpin : j.toNat < s.cfg.nPin) (hclear : ∀ j', (s.pinAt p j').changeFlag = false) :
    (s.flagPin p j).nextFlagged p 0 = some j := by
  refine (State.nextFlagged_some _ p 0 j).2 ⟨Nat.zero_le _, hpin, congrArg Pin.changeFlag flagPin_pinAt,
    fun j' hj _ _ => ?_⟩
  have hother : (s.flagPin p j).pinAt p j' = s.pinAt p j' :=
    State.pinAt_setPin_other _ p j p j' _ fun ⟨_, heq⟩ => absurd (congrArg BitVec.toNat heq) (Nat.ne_of_lt hj)
  rw [hother, hclear]

/-- R250, R320: clearing the change flag that an edge set gives back a pin whose flag was clear. -/
theorem flagPin_clearPin (hclear : (s.pinAt p j).changeFlag = false) (p' j' : Index) :
    ((s.flagPin p j).setPin p j { (s.flagPin p j).pinAt p j with changeFlag := false }).pinAt p' j' =
      s.pinAt p' j' := by
  rw [State.pinAt_setPin]
  split
  next heq => rw [flagPin_pinAt, heq.1, heq.2, ← hclear]
  next hne => exact State.pinAt_setPin_other _ p j p' j' _ hne

/-- R250, R255: clearing the port's flag that an edge set gives back a port whose flag was clear. -/
theorem flagPin_clearPort (hclear : (s.portAt p).flag = false) (p' : Index) :
    ((s.flagPin p j).setPort p { (s.flagPin p j).portAt p with flag := false }).portAt p' = s.portAt p' := by
  rw [State.portAt_setPort]
  split
  next heq => rw [flagPin_portAt, heq, ← hclear]
  next hne => exact State.portAt_setPort_other _ p p' _ hne

/-- R256: the state while the handler of the flagged pin runs, its dispatch beneath it. -/
def State.inHandler (s : State) (p j : Index) : State :=
  { s.flagPin p j with
    ctx := .code (.pinCB p j) (bankGet s.cfg.portPrio p) none ::
      .dispatch p (bankGet s.cfg.portPrio p) j.toNat :: s.ctx
    events := s.events ++ [.invoke (.pin p j) ((s.flagPin p j).pinAt p j).handler] }

/-- R256: the state after the handler's Return. -/
def State.afterHandler (s : State) (p j : Index) : State :=
  State.setPin { s.inHandler p j with ctx := .dispatch p (bankGet s.cfg.portPrio p) (j.toNat + 1) :: s.ctx } p j
    { (s.flagPin p j).pinAt p j with changeFlag := false }

/-- R256: the state after the end of the dispatch. -/
def State.afterDispatch (s : State) (p j : Index) : State :=
  State.setPort { s.afterHandler p j with ctx := s.ctx } p { (s.flagPin p j).portAt p with flag := false }

theorem State.afterHandler_pinAt (hclear : (s.pinAt p j).changeFlag = false) (p' j' : Index) :
    (s.afterHandler p j).pinAt p' j' = s.pinAt p' j' := by
  have hpins : (s.afterHandler p j).pin =
      ((s.flagPin p j).setPin p j { (s.flagPin p j).pinAt p j with changeFlag := false }).pin := rfl
  rw [State.pinAt_congr hpins, flagPin_clearPin hclear]

theorem State.afterDispatch_pinAt (hclear : (s.pinAt p j).changeFlag = false) (p' j' : Index) :
    (s.afterDispatch p j).pinAt p' j' = s.pinAt p' j' := by
  have hpins : (s.afterDispatch p j).pin = (s.afterHandler p j).pin := rfl
  rw [State.pinAt_congr hpins, State.afterHandler_pinAt hclear]

theorem State.afterDispatch_portAt (hclear : (s.portAt p).flag = false) (p' : Index) :
    (s.afterDispatch p j).portAt p' = s.portAt p' := by
  have hports : (s.afterDispatch p j).port =
      ((s.flagPin p j).setPort p { (s.flagPin p j).portAt p with flag := false }).port := rfl
  rw [State.portAt_congr hports, flagPin_clearPort hclear]

/-- R255, R318: the first DispatchStep finds the flagged pin and invokes its handler. -/
theorem dispatchStep_flagPin (hpin : j.toNat < s.cfg.nPin) (hclear : ∀ j', (s.pinAt p j').changeFlag = false)
    (hbound : ((s.flagPin p j).pinAt p j).handler ≠ 0) (rest : List Event) :
    dispatchStep { (s.flagPin p j).enterDispatch p with inbox := rest } = { s.inHandler p j with inbox := rest } := by
  have hnext : State.nextFlagged { (s.flagPin p j).enterDispatch p with inbox := rest } p 0 = some j :=
    (State.nextFlagged_congr (s := s.flagPin p j) rfl rfl).trans (flagPin_nextFlagged hpin hclear)
  rw [dispatchStep_of_ctx (s := { (s.flagPin p j).enterDispatch p with inbox := rest }) rfl,
    dispatchPort_of_bound hnext hbound]
  rfl

/-- R320: the handler's Return. -/
theorem returnFromCallback_inHandler (rest : List Event) :
    State.returnFromCallback { s.inHandler p j with inbox := rest } = { s.afterHandler p j with inbox := rest } :=
  returnFromCallback_of_pinCB (s := { s.inHandler p j with inbox := rest }) rfl

/-- R255: the last DispatchStep finds no flagged pin and ends the dispatch. -/
theorem dispatchStep_afterHandler (hclear : ∀ j', (s.pinAt p j').changeFlag = false) (rest : List Event) :
    dispatchStep { s.afterHandler p j with inbox := rest } = { s.afterDispatch p j with inbox := rest } := by
  have hnext : State.nextFlagged { s.afterHandler p j with inbox := rest } p (j.toNat + 1) = none := by
    refine (State.nextFlagged_congr (s := s.afterHandler p j) rfl rfl).trans ((State.nextFlagged_none _ p _).2 ?_)
    intro j' _ _
    rw [State.afterHandler_pinAt (hclear j), hclear]
  rw [dispatchStep_of_ctx (s := { s.afterHandler p j with inbox := rest }) rfl, dispatchPort_of_none hnext]
  rfl

/-- R256: what the five steps change. -/
theorem State.afterDispatch_eq (s : State) (p j : Index) :
    s.afterDispatch p j = { s with
      pin := (s.afterDispatch p j).pin
      port := (s.afterDispatch p j).port
      events := s.events ++ [.invoke (.pin p j) (s.pinAt p j).handler] } := by
  have hhandler : ((s.flagPin p j).pinAt p j).handler = (s.pinAt p j).handler := by rw [flagPin_pinAt]
  rw [← hhandler]
  rfl

/-- R256: the five steps are enabled one after the other and run to the end of the dispatch. -/
theorem boundEdge_succeeds (hlive : s.Live) (hport : p.toNat < s.cfg.nPort) (hpin : j.toNat < s.cfg.nPin)
    (hmatch : edgeMatches (s.pinAt p j).edge dir = true) (hbound : (s.pinAt p j).handler ≠ 0)
    (hclear : ∀ j', (s.pinAt p j').changeFlag = false) (hIE : (s.portAt p).IE = true)
    (hlevel : s.currentLevel.toNat < (bankGet s.cfg.portPrio p).toNat) (hquiet : ∀ src, s.eligible src = false) :
    SucceedsIn 5 { s with inbox := [.pinEdge p j dir, .take (.pcn p), .dispatchStep, .ret, .dispatchStep] }
      { s.afterDispatch p j with inbox := [] } := by
  have hedge : s.enabled (.pinEdge p j dir) = true := decide_eq_true ⟨hport, hpin⟩
  have htake : (s.flagPin p j).enabled (.take (.pcn p)) = true :=
    (enabled_take (.pcn p)).trans (flagPin_takeable hport hIE hlevel hquiet)
  have hwalk : ((s.flagPin p j).enterDispatch p).enabled .dispatchStep = true :=
    (enabled_dispatchStep_iff _).2 ⟨_, _, _, _, rfl⟩
  have hret : (s.inHandler p j).enabled .ret = true := (enabled_ret_iff _).2 ⟨_, _, _, rfl, nofun⟩
  have hend : (s.afterHandler p j).enabled .dispatchStep = true := (enabled_dispatchStep_iff _).2 ⟨_, _, _, _, rfl⟩
  have hhandler : ((s.flagPin p j).pinAt p j).handler ≠ 0 := by rwa [flagPin_pinAt]
  refine succeedsIn_of_perform (u := s.flagPin p j) hlive hedge
    (congrArg Host.Outcome.next (pinEdge_of_matches hmatch)) ?_
  refine succeedsIn_of_perform (u := (s.flagPin p j).enterDispatch p) (hlive.congr rfl rfl) htake rfl ?_
  refine succeedsIn_of_perform (u := s.inHandler p j) (hlive.congr rfl rfl) hwalk
    (congrArg Host.Outcome.next (dispatchStep_flagPin hpin hclear hhandler _)) ?_
  refine succeedsIn_of_perform (u := s.afterHandler p j) (hlive.congr rfl rfl) hret
    (congrArg Host.Outcome.next (returnFromCallback_inHandler _)) ?_
  refine succeedsIn_of_perform (u := s.afterDispatch p j) (hlive.congr rfl rfl) hend
    (congrArg Host.Outcome.next (dispatchStep_afterHandler hclear _)) ?_
  rw [State.afterDispatch_eq]
  exact ⟨rfl, hlive⟩

/-- Settles O52: the edge makes the port's source takeable, the dispatch finds the one flagged pin, and what the edge
set is cleared when the handler and the dispatch end. -/
theorem boundEdgeInvokesHandlerOnce : Obligations.BoundEdgeInvokesHandlerOnce := by
  intro s p j dir hlive hport hpin hmatch hbound hclear hflag hIE hlevel hquiet
  have hrun := boundEdge_succeeds hlive hport hpin hmatch hbound hclear hIE hlevel hquiet
  have hpins := State.afterDispatch_pinAt (hclear j)
  have hports := State.afterDispatch_portAt (j := j) hflag
  rw [State.afterDispatch_eq] at hrun hpins hports
  exact ⟨_, hrun, rfl, rfl, hpins, hports, rfl⟩

end Sys2Proof.Machine
end

section
/-! Proof of the statement of spec/43_pwm_compare_pair.md R218: the waveform of a PWM channel from its PSTART, through
the Ticks that find it quiet, its own services, and every other step. -/

namespace Sys2Proof.Machine

variable {s t : State} {e : Event} {i : Instr} {c c' p j : Index} {period duty : Nat} {w : PwmChannel}

/-- R218, of a channel in the state `w`. -/
theorem waveformHolds_iff (hw : s.pwmAt c = w) :
    WaveformHolds c period duty s ↔
      w.enabled = true ∧ w.periodTicks = period ∧ w.dutyTicks = duty ∧ w.counter < period ∧
      (w.IFA = false ∧ w.IFB = false →
        (s.pinAt w.port w.pinIndex).outLevel = some (if w.counter < duty then .high else .low)) ∧
      (w.IFA = true → w.IFB = false ∧ w.counter = 0) ∧ (w.IFB = true → w.counter = duty) := by
  subst hw
  rfl

/-! ### PSTART (R205) -/

/-- R205, R218: PSTART of a configured, stopped channel drives the level of the count 0. -/
theorem exec_pstart_waveform (hc : c.toNat < s.cfg.nPwm) (hmask : (s.pwmAt c).pinMask ≠ 0)
    (hoff : (s.pwmAt c).enabled = false) (hper : (s.pwmAt c).periodTicks ≥ 1) (h : exec (.pstart c) s = .next t) :
    WaveformHolds c (s.pwmAt c).periodTicks (s.pwmAt c).dutyTicks t ∧ t.pwmQuiet c ∧ (t.pwmAt c).counter = 0 := by
  rw [exec_pstart, if_neg (not_or.2 ⟨Nat.not_le.2 hc, hmask⟩), if_neg (Bool.eq_false_iff.1 hoff)] at h
  obtain ⟨-, -, -, hset, hpin⟩ := State.setPwm_drive_frame (s := s) (ch := c) (p := (s.pwmAt c).port)
    (i := (s.pwmAt c).pinIndex) (level := (s.pwmAt c).startLevel)
    (w := { s.pwmAt c with counter := 0, IFA := false, IFB := false, missed := 0, enabled := true }) rfl
  obtain rfl := Host.Outcome.next.inj h
  refine ⟨(waveformHolds_iff hset).2 ⟨rfl, rfl, rfl, hper, fun _ => ?_, nofun, nofun⟩, ?_, ?_⟩
  · exact congrArg Pin.outLevel hpin
  · exact ⟨congrArg PwmChannel.IFA hset, congrArg PwmChannel.IFB hset⟩
  · exact congrArg PwmChannel.counter hset

/-! ### Tick (R215) -/

/-- R215: a count is the successor modulo the period. -/
theorem PwmChannel.nextCount_eq_mod (h : w.counter < w.periodTicks) :
    w.nextCount = (w.counter + 1) % w.periodTicks := by
  unfold PwmChannel.nextCount
  split
  next hend =>
    have hlast : w.counter + 1 = w.periodTicks := by omega
    rw [hlast, Nat.mod_self]
  next hlt => rw [Nat.mod_eq_of_lt (Nat.not_le.1 hlt)]

/-- R218: a count that is no event is on the same side of the compare value as the count before it. -/
theorem PwmChannel.level_of_no_event (hroll : w.nextCount ≠ 0)
    (hcmp : ¬(w.mode = .normal ∧ w.nextCount = w.dutyTicks)) :
    w.nextCount < w.dutyTicks ↔ w.counter < w.dutyTicks := by
  rw [w.mode_eq_normal] at hcmp
  unfold PwmChannel.nextCount at hroll hcmp ⊢
  split_ifs at hroll hcmp ⊢
  case pos => exact absurd rfl hroll
  case neg => omega

/-- R218: a Tick that finds no event of the channel pending keeps the waveform and counts. -/
theorem tick_waveform (hc : c.toNat < s.cfg.nPwm) (hs : WaveformHolds c period duty s) (hquiet : s.pwmQuiet c) :
    WaveformHolds c period duty (tick s) ∧ ((tick s).pwmAt c).counter = ((s.pwmAt c).counter + 1) % period := by
  obtain ⟨hon, rfl, rfl, hcnt, hpin, -, -⟩ := hs
  obtain ⟨hIFA, hIFB⟩ := hquiet
  have hlevel := hpin ⟨hIFA, hIFB⟩
  have hnext : (s.pwmAt c).nextCount < (s.pwmAt c).periodTicks := PwmChannel.nextCount_lt (Nat.zero_lt_of_lt hcnt)
  have hmod := PwmChannel.nextCount_eq_mod hcnt
  have hw : (tick s).pwmAt c = pwmCount (s.pwmAt c) := by rw [State.pwmAt_tick, if_pos hc, tickPwm_of_enabled hon]
  rcases pwmCount_cases (s.pwmAt c) with ⟨hzero, heq⟩ | ⟨hzero, -, hcmp, heq⟩ | ⟨hzero, hcmp, heq⟩
  · rw [eventA_eq] at heq
    rw [waveformHolds_iff (hw.trans heq), hw, heq]
    exact ⟨⟨hon, rfl, rfl, Nat.zero_lt_of_lt hcnt, nofun, fun _ => ⟨hIFB, rfl⟩, fun hB => absurd hB (by simp [hIFB])⟩,
      hzero ▸ hmod⟩
  · rw [eventB_eq] at heq
    rw [waveformHolds_iff (hw.trans heq), hw, heq]
    exact ⟨⟨hon, rfl, rfl, hnext, nofun, fun hA => absurd hA (by simp [hIFA]), fun _ => hcmp⟩, hmod⟩
  · rw [waveformHolds_iff (hw.trans heq), hw, heq]
    refine ⟨⟨hon, rfl, rfl, hnext, fun _ => ?_, fun hA => absurd hA (by simp [hIFA]),
      fun hB => absurd hB (by simp [hIFB])⟩, hmod⟩
    simp only [PwmChannel.level_of_no_event hzero hcmp]
    exact hlevel

/-! ### The channel's services (R216, R217) -/

/-- R216, R218: event A was raised at the count 0, and its service drives that count's level. -/
theorem pwmServiceA_waveform (hs : WaveformHolds c period duty s) (hIFA : (s.pwmAt c).IFA = true) :
    WaveformHolds c period duty (pwmServiceA c s) ∧ (pwmServiceA c s).pwmQuiet c ∧
      ((pwmServiceA c s).pwmAt c).counter = (s.pwmAt c).counter := by
  obtain ⟨hon, rfl, rfl, hcnt, -, hA, hB⟩ := hs
  obtain ⟨hIFB, hzero⟩ := hA hIFA
  have hw : (pwmServiceA c s).pwmAt c = { s.pwmAt c with IFA := false } := by rw [pwmAt_pwmServiceA, if_pos rfl]
  rw [waveformHolds_iff hw, State.pwmQuiet, hw]
  refine ⟨⟨hon, rfl, rfl, hcnt, fun _ => ?_, nofun, hB⟩, ⟨rfl, hIFB⟩, rfl⟩
  have hpin := pinAt_pwmServiceA (s := s) c (s.pwmAt c).port (s.pwmAt c).pinIndex
  rw [if_pos ⟨rfl, rfl⟩] at hpin
  rw [hzero]
  exact congrArg Pin.outLevel hpin

/-- R217, R218: event B was raised at the compare value, which is then within the period, and its service drives Low. -/
theorem pwmServiceB_waveform (hs : WaveformHolds c period duty s) (hIFB : (s.pwmAt c).IFB = true) :
    WaveformHolds c period duty (pwmServiceB c s) ∧ (pwmServiceB c s).pwmQuiet c ∧
      ((pwmServiceB c s).pwmAt c).counter = (s.pwmAt c).counter := by
  obtain ⟨hon, rfl, rfl, hcnt, -, hA, hB⟩ := hs
  have hcmp := hB hIFB
  have hIFA : (s.pwmAt c).IFA = false := Bool.eq_false_iff.2 fun h => by
    rw [(hA h).1] at hIFB
    cases hIFB
  have hw : (pwmServiceB c s).pwmAt c = { s.pwmAt c with IFB := false } := by rw [pwmAt_pwmServiceB, if_pos rfl]
  rw [waveformHolds_iff hw, State.pwmQuiet, hw]
  refine ⟨⟨hon, rfl, rfl, hcnt, fun _ => ?_, fun h => absurd h (by simp [hIFA]), nofun⟩, ⟨hIFA, rfl⟩, rfl⟩
  have hpin := pinAt_pwmServiceB (s := s) c (s.pwmAt c).port (s.pwmAt c).pinIndex
  rw [if_pos ⟨hcmp ▸ hcnt, rfl, rfl⟩] at hpin
  rw [if_neg (by simp [hcmp])]
  exact congrArg Pin.outLevel hpin

/-! ### Every other step -/

/-- R218: the waveform reads the channel and the level of its pin. -/
theorem WaveformHolds.of_same (hs : WaveformHolds c period duty s) (hw : t.pwmAt c = s.pwmAt c)
    (hlevel : (t.pinAt (s.pwmAt c).port (s.pwmAt c).pinIndex).outLevel =
      (s.pinAt (s.pwmAt c).port (s.pwmAt c).pinIndex).outLevel) :
    WaveformHolds c period duty t ∧ (t.pwmAt c).counter = (s.pwmAt c).counter := by
  rw [waveformHolds_iff hw, hlevel, hw]
  exact ⟨hs, rfl⟩

/-- R13: reading a choice keeps the waveform. -/
theorem waveformHolds_nextChoice : WaveformHolds c period duty s.nextChoice.2 ↔ WaveformHolds c period duty s := by
  simp only [WaveformHolds, State.pwmQuiet, nextChoice_pwmAt, nextChoice_pinAt]

/-- R205, R216, R217: the effect `e` may drive the pin of channel `c`: a service of it, or a PSTART of it. -/
def MayDrive (e : Event) (s : State) (c : Index) : Prop :=
  e = .take (.pwmA c) ∨ e = .take (.pwmB c) ∨
    (c.toNat < s.cfg.nPwm ∧ (s.pwmAt c).pinMask ≠ 0 ∧ (s.pwmAt c).enabled = false)

/-- R12: an effect drives no pin, or that of one channel. -/
theorem perform_outLevel (h : perform e s = .next t) :
    (∀ p j, (t.pinAt p j).outLevel = (s.pinAt p j).outLevel) ∨
    ∃ c, MayDrive e s c ∧ ∀ p j, ¬(p = (s.pwmAt c).port ∧ j = (s.pwmAt c).pinIndex) →
      (t.pinAt p j).outLevel = (s.pinAt p j).outLevel := by
  rcases perform_cases h with ⟨_, _, _, _, -, -, hx⟩ | ⟨_, _, _, -, -, rfl⟩ | ⟨-, rfl⟩ | ⟨_, -, rfl⟩ | ⟨k, he, rfl⟩ |
    ⟨k, he, rfl⟩ | ⟨_, -, rfl⟩ | ⟨-, rfl⟩ | ⟨-, rfl⟩ | ⟨-, rfl⟩ | ⟨_, _, _, -, rfl⟩ | ⟨_, _, -, rfl⟩
  · rcases exec_outLevel hx with hsame | ⟨k, -, hk, hmask, hoff, hother⟩
    · exact .inl hsame
    · exact .inr ⟨k, .inr (.inr ⟨hk, hmask, hoff⟩), hother⟩
  · exact .inl fun p j => by simp
  · exact .inl fun p j => by simp
  · exact .inl fun p j => by simp
  · exact .inr ⟨k, .inl he, fun p j hne => by rw [pinAt_pwmServiceA, if_neg hne]⟩
  · exact .inr ⟨k, .inr (.inl he), fun p j hne => by rw [pinAt_pwmServiceB, if_neg fun hk => hne hk.2]⟩
  · exact .inl fun p j => by simp
  · exact .inl dispatchStep_outLevel
  · exact .inl returnFromCallback_outLevel
  · exact .inl fun p j => by simp
  · exact .inl (pinEdge_outLevel _ _ _)
  · exact .inl (s.flagPin_outLevel _ _)

/-- R312: the service of a PWM channel is enabled for an existing, running channel only. -/
theorem running_of_takes (h : s.enabled e = true) (he : e = .take (.pwmA c) ∨ e = .take (.pwmB c)) :
    c.toNat < s.cfg.nPwm ∧ (s.pwmAt c).enabled = true := by
  rcases he with rfl | rfl
  all_goals
    obtain ⟨hexists, -, hunmasked, -⟩ := (s.eligible_iff _).1 ((s.takeable_iff _).1 h).1
    exact ⟨of_decide_eq_true hexists, hunmasked⟩

/-- R39: a running channel is configured. -/
theorem State.Inv.configured (hs : s.Inv) (hc : c.toNat < s.cfg.nPwm) (hon : (s.pwmAt c).enabled = true) :
    (s.pwmAt c).pinMask ≠ 0 := by
  obtain ⟨⟨-, -, -, -, hrun, -⟩, -⟩ := hs.pwms c hc
  exact hrun hon

/-- R38, R43: a configured channel claims the pin it drives. -/
theorem State.Inv.claims (hs : s.Inv) (hc : c.toNat < s.cfg.nPwm) (hmask : (s.pwmAt c).pinMask ≠ 0) :
    (s.pwmAt c).claims (s.pwmAt c).port (s.pwmAt c).pinIndex.toNat = true := by
  obtain ⟨-, -, -, hpin, -⟩ := hs.pwms c hc
  have hidx : maskIndex (s.pwmAt c).pinMask < 16 := (hpin hmask).2.trans_le (Config.wellFormed_nPin hs.config)
  refine (PwmChannel.claims_iff ..).2 ⟨hmask, rfl, ?_⟩
  rw [PwmChannel.pinIndex, BitVec.toNat_ofNat, Nat.mod_eq_of_lt hidx]

/-- R43: two configured channels drive different pins. -/
theorem State.Inv.drives_other_pin (hs : s.Inv) (hc : c.toNat < s.cfg.nPwm) (hc' : c'.toNat < s.cfg.nPwm)
    (hmask : (s.pwmAt c).pinMask ≠ 0) (hmask' : (s.pwmAt c').pinMask ≠ 0) (hne : c ≠ c') :
    ¬((s.pwmAt c).port = (s.pwmAt c').port ∧ (s.pwmAt c).pinIndex = (s.pwmAt c').pinIndex) := by
  rintro ⟨hport, hidx⟩
  have hclaim' := hs.claims hc' hmask'
  rw [← hport, ← hidx] at hclaim'
  exact hne (hs.pins.2 c c' _ _ hc hc' (hs.claims hc hmask) hclaim')

/-- R215–R217, R200–R210: an effect other than a Tick, a service of the channel, and a PDUTY or PSTOP of it keeps a
running channel. -/
theorem perform_keeps_running_pwm (h : perform e s = .next t) (hon : (s.pwmAt c).enabled = true) (htick : e ≠ .tick)
    (hA : e ≠ .take (.pwmA c)) (hB : e ≠ .take (.pwmB c)) (hcmd : ¬changesRunningPwm e c) :
    t.pwmAt c = s.pwmAt c := by
  rcases perform_pwmAt h c with ⟨w0, w1, w2, i, he, hi, hx⟩ | hw | ⟨he, -⟩ | ⟨he, -⟩ | ⟨he, -⟩
  · rcases exec_pwmAt (c := c) hx with hw | ⟨_, _, _, _, _, _, -, -, -, hoff, -⟩ | ⟨d, rfl, -⟩ |
      ⟨-, -, hoff, -⟩ | ⟨rfl, -⟩
    · exact hw
    · rw [hon] at hoff; cases hoff
    · exact absurd ⟨w0, w1, w2, he, .inl ⟨d, hi⟩⟩ hcmd
    · rw [hon] at hoff; cases hoff
    · exact absurd ⟨w0, w1, w2, he, .inr hi⟩ hcmd
  · exact hw
  · exact absurd he htick
  · exact absurd he hA
  · exact absurd he hB

/-- R43, R218: an effect that is no service of a running channel does not drive its pin. -/
theorem perform_keeps_running_level (hs : s.Inv) (hen : s.enabled e = true) (hc : c.toNat < s.cfg.nPwm)
    (hon : (s.pwmAt c).enabled = true) (h : perform e s = .next t) (hA : e ≠ .take (.pwmA c))
    (hB : e ≠ .take (.pwmB c)) :
    (t.pinAt (s.pwmAt c).port (s.pwmAt c).pinIndex).outLevel =
      (s.pinAt (s.pwmAt c).port (s.pwmAt c).pinIndex).outLevel := by
  rcases perform_outLevel h with hsame | ⟨k, hdrive, hother⟩
  · exact hsame _ _
  refine hother _ _ ?_
  have hmask := hs.configured hc hon
  have hne : c ≠ k := by
    rintro rfl
    rcases hdrive with rfl | rfl | ⟨-, -, hoff⟩
    · exact hA rfl
    · exact hB rfl
    · rw [hon] at hoff
      cases hoff
  rcases or_assoc.2 hdrive with htakes | ⟨hk, hmask', -⟩
  · obtain ⟨hk, hon'⟩ := running_of_takes hen htakes
    exact hs.drives_other_pin hc hk hmask (hs.configured hk hon') hne
  · exact hs.drives_other_pin hc hk hmask hmask' hne

/-- R218: every enabled step but a Tick, a PDUTY and a PSTOP of the channel keeps its waveform and its counter. -/
theorem perform_keeps_waveform (hs : s.Inv) (hen : s.enabled e = true) (hc : c.toNat < s.cfg.nPwm)
    (hwave : WaveformHolds c period duty s) (h : perform e s = .next t) (htick : e ≠ .tick)
    (hcmd : ¬changesRunningPwm e c) :
    WaveformHolds c period duty t ∧ (t.pwmAt c).counter = (s.pwmAt c).counter := by
  by_cases hA : e = .take (.pwmA c)
  · subst hA
    cases h
    obtain ⟨hkept, -, hcnt⟩ := pwmServiceA_waveform hwave (pending_of_takeable hen)
    exact ⟨hkept, hcnt⟩
  by_cases hB : e = .take (.pwmB c)
  · subst hB
    cases h
    obtain ⟨hkept, -, hcnt⟩ := pwmServiceB_waveform hwave (pending_of_takeable hen)
    exact ⟨hkept, hcnt⟩
  have hon : (s.pwmAt c).enabled = true := hwave.1
  exact hwave.of_same (perform_keeps_running_pwm h hon htick hA hB hcmd)
    (perform_keeps_running_level hs hen hc hon h hA hB)

/-- Settles O60: PSTART establishes the waveform, and each kind of step keeps it by its own lemma. -/
theorem promptWaveformIsHighForDutyCounts : Obligations.PromptWaveformIsHighForDutyCounts := by
  refine ⟨fun s t ch hc hmask hoff hper h => exec_pstart_waveform hc hmask hoff hper h,
    fun s t ch period duty hlive hc hwave hquiet h => ?_, fun s t ch period duty hlive hwave h => ?_,
    fun s t ch period duty hs hc hwave h htick hcmd => ?_⟩
  · obtain rfl : tick s = t := Host.Outcome.next.inj ((stepOn_enabled hlive rfl).symm.trans h)
    exact tick_waveform hc hwave hquiet
  · rcases h with ⟨htake, h⟩ | ⟨htake, h⟩
    · obtain rfl := next_of_stepOn_take hlive htake h
      exact pwmServiceA_waveform hwave (pending_of_takeable htake)
    · obtain rfl := next_of_stepOn_take hlive htake h
      exact pwmServiceB_waveform hwave (pending_of_takeable htake)
  · rcases step_cases h with ⟨-, rfl⟩ | ⟨hen, hp⟩
    · exact ⟨waveformHolds_nextChoice.2 hwave, by simp⟩
    · have kept := perform_keeps_waveform hs.nextChoice (by rwa [enabled_nextChoice]) (by simpa using hc)
        (waveformHolds_nextChoice.2 hwave) hp htick hcmd
      simpa only [nextChoice_pwmAt] using kept

end Sys2Proof.Machine
end
